-- ==== Sys2Proof/Word.lean ====
section
/-!
DEFINITION. The words of the HALO9 render block (spec/00_scope.md R8, R9): a register, memory or response word has 32 bits, a
command word has 64 bits, and a binary32 value is its 32-bit pattern (`bits` and `asf32` of R10 are then the identity).
-/
namespace Sys2Proof

/-- A register word, a pad memory word or a response word (R8). -/
abbrev Word := BitVec 32

/-- An IEEE 754 binary32 value, held as its bit pattern (R9, R10). -/
abbrev F32 := BitVec 32

/-- A command word (R8, R110). -/
abbrev Cmd := BitVec 64

/-- The two command ports (R14): P0 is the real-time port, P1 the non-real-time port. -/
inductive Port where
  | p0
  | p1
deriving DecidableEq, Repr

/-- The number of a port, as rule R296 shifts it into `ERRFIRST`. -/
def Port.number : Port → Nat
  | .p0 => 0
  | .p1 => 1

/-- One word of a sparse memory at a word address (R82: the smallest unit of pad sample memory is a 32-bit word). -/
abbrev WordCell := Nat × Word

end Sys2Proof
end

