-- ==== Sys2Proof/Config.lean ====
section
/-!
DEFINITION. What is fixed for the hardware and what its spec leaves as an argument (spec/00_scope.md R7, R51, 93 U17): the closed
parameters are constants, the open ones are the fields of `Params`, and what nothing in the spec decides is an opaque constant.
-/
namespace Sys2Proof

/-- The five normalised biquad coefficients that `COEF_FN` returns (R232). -/
structure Coefs where
  b0 : F32
  b1 : F32
  b2 : F32
  a1 : F32
  a2 : F32
deriving DecidableEq, Repr, Inhabited

/-- The six parameters the block hands to the reverb insert (R240, R244). -/
structure ReverbParams where
  room : F32
  wet : F32
  dry : F32
  damp : F32
  width : F32
  freeze : F32
deriving DecidableEq, Repr, Inhabited

/-- The opaque reverb state `RVS` (R39). DESIGN CHOICE (log 3): a list of words, which can code any state of a finite machine. -/
abbrev Rvs := List Word

/-! ### Free functions: nothing in Lean can evaluate them -/

/-- Word of pad sample memory at an address that no `PM_DATA` write has written since the reset number `epoch` (93 U1, R99).
DESIGN CHOICE (log 5). -/
opaque Config.pmInit (epoch addr : Nat) : Word

/-- The `n`-th free choice of the engine between two non-empty command queues: true serves P1 (R15, 93 U12).
DESIGN CHOICE (log 7). -/
opaque Config.arbiter (n : Nat) : Bool

/-- An arbitrary `COEF_FN` (R232, 93 U8). DESIGN CHOICE (log 2). -/
opaque Config.coefFree (cutoff fs : F32) : Coefs

/-- An arbitrary `REVERB_FN` (R244, 93 U10). DESIGN CHOICE (log 3). -/
opaque Config.reverbFree (rp : ReverbParams) (rvs : Rvs) (frame : List F32) : Rvs × List F32

/-- An arbitrary `RVS_INIT` (R244). DESIGN CHOICE (log 3). -/
opaque Config.rvsInit : Rvs

/-- An arbitrary table of frequencies, before the constraint of R162 is put on it. DESIGN CHOICE (log 4). -/
opaque Config.freqFree (note : Nat) : F32

/-! ### Closed parameters (R7) -/

/-- `NV`, the number of synth voices. -/
def Config.nv : Nat := 8

/-- `NPADS`, the number of pad slots. -/
def Config.npads : Nat := 8

/-- `PAD_BASE_NOTE`, the first note of the pad range. -/
def Config.padBaseNote : Nat := 36

/-- `HEADROOM = F("0.3")`. -/
def Config.headroom : F32 := 0x3E99999A#32

/-- `Q_CONST = F("0.70710678")`. -/
def Config.qConst : F32 := 0x3F3504F3#32

/-- `ID_VALUE` (R2). -/
def Config.idValue : Word := 0x48390007#32

/-- `FMAX`, the largest finite binary32 value (R276). -/
def Config.fMax : F32 := 0x7F7FFFFF#32

/-! ### Open parameters (R7, 93 U17): the model takes them as arguments -/

/-- Which `FREQ_ROM` (R162): the table of the rule, or a free table under the rule's one constraint. -/
inductive FreqChoice where
  | table
  | free
deriving DecidableEq, Repr

/-- Which `COEF_FN` (R232): the default of R233, or a free function. -/
inductive CoefChoice where
  | rbj
  | free
deriving DecidableEq, Repr

/-- Which `REVERB_FN` and `RVS_INIT` (R244): the bypass, or free ones. -/
inductive ReverbChoice where
  | bypass
  | free
deriving DecidableEq, Repr

/-- The open parameters of R7. DESIGN CHOICE (log 1): an argument of the model is handed to `exec` in the state, which no
command writes. -/
structure Params where
  /-- `NCH`, output channels. -/
  nch : Nat
  /-- `PV`, pad playback voices. -/
  pv : Nat
  /-- `HW_MAXBLOCK`, the largest block length the output buffer holds. -/
  hwMaxBlock : Nat
  /-- `PADMEM_WORDS`, the size of pad sample memory in words. -/
  padMemWords : Nat
  /-- `PAD_CAP_FRAMES`, the cap on the frames kept per slot. -/
  padCapFrames : Nat
  freq : FreqChoice
  coef : CoefChoice
  reverb : ReverbChoice
deriving DecidableEq, Repr

/-- The defaults of R7, which every vector of 95_test_vectors.md uses. -/
def Params.spec : Params where
  nch := 2
  pv := 8
  hwMaxBlock := 4096
  padMemWords := 16777216
  padCapFrames := 1323000
  freq := .table
  coef := .rbj
  reverb := .bypass

/-- The values the open sizes may take: `NCH` is 1 or 2 (R7), `PV` at most 32 (R35), `HW_MAXBLOCK` at most the 4096 entries of
the output window (R83), `PADMEM_WORDS` at most 2^32 (R7), and a frame count that fits the s32 `POS` (R34, DEDUCED, log 13). -/
abbrev Params.Legal (p : Params) : Prop :=
  (p.nch = 1 ∨ p.nch = 2) ∧ (1 ≤ p.pv ∧ p.pv ≤ 32) ∧ (1 ≤ p.hwMaxBlock ∧ p.hwMaxBlock ≤ 4096) ∧
    (1 ≤ p.padMemWords ∧ p.padMemWords ≤ 2 ^ 32) ∧ (1 ≤ p.padCapFrames ∧ p.padCapFrames < 2 ^ 31)

end Sys2Proof
end

