-- ==== Sys2Proof/Syntax.lean ====
section
/-!
DEFINITION. The twelve commands (spec/30_encoding.md R119), one constructor per row of the opcode table, each with the operands
of its format (R112 to R117) as rule R118 assembles them: integers by zero extension, binary32 values and data as raw words.
-/
namespace Sys2Proof

/-- A command of the block. The operands that rule R122 says are ignored (`chan`, and `vel` of a stop) are carried. -/
inductive Instr where
  /-- `NOP`, format Z (R275). -/
  | nop
  /-- `PREPARE rate, maxBlock`, format S (R256). -/
  | prepare (maxBlock : Nat) (rate : F32)
  /-- `RELEASE`, format Z (R258). -/
  | release
  /-- `RENDER count`, format B (R259). -/
  | render (count : Nat)
  /-- `NOTE_ON note, vel, chan`, format N (R179). -/
  | noteOn (note chan : Nat) (vel : F32)
  /-- `NOTE_OFF note, vel, chan`, format N (R181). -/
  | noteOff (note chan : Nat) (vel : F32)
  /-- `NOTE_CUT note, vel, chan`, format N (R182). -/
  | noteCut (note chan : Nat) (vel : F32)
  /-- `PAD_TRIG pad, vel`, format P (R198). -/
  | padTrig (pad : Nat) (vel : F32)
  /-- `PAD_LOAD pad`, format P (R203). -/
  | padLoad (pad : Nat)
  /-- `PAD_CLEAR pad`, format P (R205). -/
  | padClear (pad : Nat)
  /-- `WRREG addr, data`, format R (R276). -/
  | wrreg (addr : Nat) (data : Word)
  /-- `RDREG addr`, format R (R278). -/
  | rdreg (addr : Nat)
deriving DecidableEq, Repr

end Sys2Proof
end

