-- ==== Sys2Proof/WellFormed.lean ====
section
/-!
DEFINITION. When a command's integer operands fit the fields of its format (spec/30_encoding.md R113 to R118).
-/
namespace Sys2Proof

/-- The 24-bit `maxBlock` field of format S (R113). -/
def maxBlockFits (n : Nat) : Bool := decide (n < 2 ^ 24)

/-- The 32-bit `count` field of format B (R114). -/
def countFits (n : Nat) : Bool := decide (n < 2 ^ 32)

/-- The 7-bit `note` field of format N (R115). -/
def noteFits (n : Nat) : Bool := decide (n < 128)

/-- The 4-bit `chan` field of format N (R115). -/
def chanFits (n : Nat) : Bool := decide (n < 16)

/-- The 8-bit `pad` field of format P (R116). -/
def padFits (n : Nat) : Bool := decide (n < 256)

/-- The 16-bit `addr` field of format R (R117). -/
def addrFits (n : Nat) : Bool := decide (n < 65536)

/-- Every integer operand fits its field. -/
def Instr.wellFormed : Instr → Bool
  | .nop => true
  | .prepare maxBlock _ => maxBlockFits maxBlock
  | .release => true
  | .render count => countFits count
  | .noteOn note chan _ => noteFits note && chanFits chan
  | .noteOff note chan _ => noteFits note && chanFits chan
  | .noteCut note chan _ => noteFits note && chanFits chan
  | .padTrig pad _ => padFits pad
  | .padLoad pad => padFits pad
  | .padClear pad => padFits pad
  | .wrreg addr _ => addrFits addr
  | .rdreg addr => addrFits addr

end Sys2Proof
end

