-- ==== Sys2Proof/Decode.lean ====
section
/-!
DEFINITION. The decoder and the encoder of command words (spec/30_encoding.md R110 to R122). The opcode table of R119 is a list of
rows with the rule's own match and mask words; the decoder is total on all 2^64 words and rejects by name.
-/
namespace Sys2Proof

/-- The twelve opcodes of R119. -/
inductive Opcode where
  | nop | prepare | release | render | noteOn | noteOff | noteCut | padTrig | padLoad | padClear | wrreg | rdreg
deriving DecidableEq, Repr

/-- One row of the opcode table: a word `w` selects the row when `w &&& mask = pattern` (R119). -/
structure OpcodeRow where
  op : Opcode
  pattern : Cmd
  mask : Cmd
deriving DecidableEq, Repr

/-- The opcode table of R119. -/
def opcodeTable : List OpcodeRow :=
  [ ⟨.nop,      0x0000000000000000#64, 0xFFFFFFFFFFFFFFFF#64⟩,
    ⟨.prepare,  0x0100000000000000#64, 0xFF00000000000000#64⟩,
    ⟨.release,  0x0200000000000000#64, 0xFFFFFFFFFFFFFFFF#64⟩,
    ⟨.render,   0x0800000000000000#64, 0xFFFFFFFF00000000#64⟩,
    ⟨.noteOn,   0x1000000000000000#64, 0xFF80F0FF00000000#64⟩,
    ⟨.noteOff,  0x1100000000000000#64, 0xFF80F0FF00000000#64⟩,
    ⟨.noteCut,  0x1200000000000000#64, 0xFF80F0FF00000000#64⟩,
    ⟨.padTrig,  0x2000000000000000#64, 0xFF00FFFF00000000#64⟩,
    ⟨.padLoad,  0x2100000000000000#64, 0xFF00FFFFFFFFFFFF#64⟩,
    ⟨.padClear, 0x2200000000000000#64, 0xFF00FFFFFFFFFFFF#64⟩,
    ⟨.wrreg,    0x3000000000000000#64, 0xFF0000FF00000000#64⟩,
    ⟨.rdreg,    0x3100000000000000#64, 0xFF0000FFFFFFFFFF#64⟩ ]

/-- The selection test of R119. -/
def OpcodeRow.selects (r : OpcodeRow) (w : Cmd) : Bool := decide (w &&& r.mask = r.pattern)

/-- Why a word is illegal: exactly two ways (R121). -/
inductive DecodeError where
  /-- The opcode field is none of the twelve. -/
  | unknownOpcode
  /-- The opcode is one of the twelve and a must-be-zero bit of its format is 1. -/
  | mustBeZero
deriving DecidableEq, Repr

/-- `opcode = cmd[63:56]` (R118). -/
def fieldOpcode (w : Cmd) : Nat := (w.extractLsb' 56 8).toNat
/-- `note = zext(cmd[54:48])` (R118). -/
def fieldNote (w : Cmd) : Nat := (w.extractLsb' 48 7).toNat
/-- `chan = zext(cmd[43:40])` (R118). -/
def fieldChan (w : Cmd) : Nat := (w.extractLsb' 40 4).toNat
/-- `pad = zext(cmd[55:48])` (R118). -/
def fieldPad (w : Cmd) : Nat := (w.extractLsb' 48 8).toNat
/-- `addr = zext(cmd[55:40])` (R118). -/
def fieldAddr (w : Cmd) : Nat := (w.extractLsb' 40 16).toNat
/-- `maxBlock = zext(cmd[55:32])` (R118). -/
def fieldMaxBlock (w : Cmd) : Nat := (w.extractLsb' 32 24).toNat
/-- `imm32 = cmd[31:0]`, the raw word of `data`, `velocity` and `rate` (R111, R118). -/
def fieldImm (w : Cmd) : Word := w.extractLsb' 0 32

/-- The operands of a word whose row is known (R118). -/
def operandsOf (op : Opcode) (w : Cmd) : Instr :=
  match op with
  | .nop => .nop
  | .prepare => .prepare (fieldMaxBlock w) (fieldImm w)
  | .release => .release
  | .render => .render (fieldImm w).toNat
  | .noteOn => .noteOn (fieldNote w) (fieldChan w) (fieldImm w)
  | .noteOff => .noteOff (fieldNote w) (fieldChan w) (fieldImm w)
  | .noteCut => .noteCut (fieldNote w) (fieldChan w) (fieldImm w)
  | .padTrig => .padTrig (fieldPad w) (fieldImm w)
  | .padLoad => .padLoad (fieldPad w)
  | .padClear => .padClear (fieldPad w)
  | .wrreg => .wrreg (fieldAddr w) (fieldImm w)
  | .rdreg => .rdreg (fieldAddr w)

/-- The row a word selects: the first, and by disjointness the only one (R119, R120 step 1). -/
def rowOf (w : Cmd) : Option OpcodeRow := opcodeTable.find? (fun r => r.selects w)

/-- Whether the opcode field is one of the twelve (R121). -/
def opcodeKnown (w : Cmd) : Bool := opcodeTable.any (fun r => decide ((r.pattern.extractLsb' 56 8).toNat = fieldOpcode w))

/-- The decoder (R120 steps 1 and 3): total on all 2^64 words. -/
def decode (w : Cmd) : Except DecodeError Instr :=
  match rowOf w with
  | some r => .ok (operandsOf r.op w)
  | none => if opcodeKnown w then .error .mustBeZero else .error .unknownOpcode

/-- A command word from its five fields (R111): `opcode`, `a`, `b`, `c`, `imm32`. -/
def packFields (op a b c : BitVec 8) (imm : Word) : Cmd := op ++ a ++ b ++ c ++ imm

/-- Format N (R115): the note in `a[6:0]`, the channel in `b[3:0]`. -/
def packNote (op : BitVec 8) (note chan : Nat) (vel : F32) : Cmd :=
  packFields op (0#1 ++ BitVec.ofNat 7 note) (0#4 ++ BitVec.ofNat 4 chan) 0#8 vel

/-- Format R (R117): `addr[15:8]` in `a`, `addr[7:0]` in `b`. -/
def packReg (op : BitVec 8) (addr : Nat) (imm : Word) : Cmd :=
  packFields op (BitVec.ofNat 8 (addr / 256)) (BitVec.ofNat 8 addr) 0#8 imm

/-- The word of a well-formed command (R112 to R119); of an operand that does not fit its field, the low bits (log 28). -/
def encode : Instr → Cmd
  | .nop => packFields 0x00#8 0#8 0#8 0#8 0#32
  | .prepare maxBlock rate =>
      packFields 0x01#8 (BitVec.ofNat 8 (maxBlock / 65536)) (BitVec.ofNat 8 (maxBlock / 256)) (BitVec.ofNat 8 maxBlock) rate
  | .release => packFields 0x02#8 0#8 0#8 0#8 0#32
  | .render count => packFields 0x08#8 0#8 0#8 0#8 (BitVec.ofNat 32 count)
  | .noteOn note chan vel => packNote 0x10#8 note chan vel
  | .noteOff note chan vel => packNote 0x11#8 note chan vel
  | .noteCut note chan vel => packNote 0x12#8 note chan vel
  | .padTrig pad vel => packFields 0x20#8 (BitVec.ofNat 8 pad) 0#8 0#8 vel
  | .padLoad pad => packFields 0x21#8 (BitVec.ofNat 8 pad) 0#8 0#8 0#32
  | .padClear pad => packFields 0x22#8 (BitVec.ofNat 8 pad) 0#8 0#8 0#32
  | .wrreg addr data => packReg 0x30#8 addr data
  | .rdreg addr => packReg 0x31#8 addr 0#32

/-- The command word in the low `nbits` bits of a number, bit 0 its least significant bit; the bits above are 0. A command is one
64-bit word (R110), so the first word is the whole of it. -/
def cmdOfTableBits (nbits w : Nat) : Cmd := BitVec.ofNat 64 (w % 2 ^ nbits)

/-- The command the decoder reads from a word of the opcode table. -/
def decodeTableWord (nbits w : Nat) : Option Instr :=
  match decode (cmdOfTableBits nbits w) with
  | .ok i => some i
  | .error _ => none

/-- A command word carried over a byte stream, byte 0 first and least significant (R84); missing bytes read 0. -/
def cmdOfBytes (bytes : List (BitVec 8)) : Cmd :=
  bytes.getD 7 0#8 ++ bytes.getD 6 0#8 ++ bytes.getD 5 0#8 ++ bytes.getD 4 0#8 ++
    bytes.getD 3 0#8 ++ bytes.getD 2 0#8 ++ bytes.getD 1 0#8 ++ bytes.getD 0 0#8

/-- The eight bytes of a command word in stream order (R84). -/
def bytesOfCmd (w : Cmd) : List (BitVec 8) := (List.range 8).map (fun k => w.extractLsb' (8 * k) 8)

/-- The four bytes of a response word in stream order (R84). -/
def bytesOfWord (w : Word) : List (BitVec 8) := (List.range 4).map (fun k => w.extractLsb' (8 * k) 8)

end Sys2Proof
end

