-- ==== Sys2Proof/Machine/State.lean ====
section
/-!
DEFINITION. The architectural state of the block (spec/10_state.md R20), as plain data, its value after reset (R50), and the two
reasons for which a step of the model stops.
-/
namespace Sys2Proof.Machine

/-- A sparse memory of 32-bit words: (address, word) entries, addresses strictly rising (log 5, 6, 15). -/
abbrev Memory := List WordCell

/-- The addresses of a memory rise strictly: the canonical form. -/
def Memory.wf : Memory → Bool
  | [] => true
  | [_] => true
  | e :: f :: m => decide (e.1 < f.1) && Memory.wf (f :: m)

/-- No entry holds +0.0: the canonical form of an output row, whose unlisted entries read +0.0 (log 15). -/
def Memory.noZero (m : Memory) : Bool := m.all (fun e => decide (e.2 ≠ 0#32))

/-- `ENV.STAGE` (R27). -/
inductive Stage where
  | idle
  | attack
  | decay
  | sustain
  | release
deriving DecidableEq, Repr

/-- The number of a stage as `RDREG` shows it (R27). -/
def Stage.code : Stage → Nat
  | .idle => 0
  | .attack => 1
  | .decay => 2
  | .sustain => 3
  | .release => 4

/-- The envelope sub-record `V[k].ENV` (R23). -/
structure Env where
  stage : Stage
  level : F32
  attack : F32
  decay : F32
  sustain : F32
  release : F32
  arate : F32
  drate : F32
  rrate : F32
deriving DecidableEq, Repr

/-- The envelope after reset (R50). -/
def Env.zero : Env := ⟨.idle, 0#32, 0#32, 0#32, 0#32, 0#32, 0#32, 0#32, 0#32⟩

/-- A synth voice record `V[k]` (R22). -/
structure Voice where
  phase : F32
  freq : F32
  velgain : F32
  note : BitVec 7
  active : Bool
  env : Env
deriving DecidableEq, Repr

/-- A voice after reset and after `EngineClear` (R50, R257). -/
def Voice.zero : Voice := ⟨0#32, 0#32, 0#32, 0#7, false, Env.zero⟩

/-- A pad slot descriptor `PAD[p]` (R33). -/
structure PadSlot where
  loaded : Bool
  base : Word
  frames : Word
  chans : Word
  fileid : Word
deriving DecidableEq, Repr

/-- An unloaded slot (R50, R205). -/
def PadSlot.empty : PadSlot := ⟨false, 0#32, 0#32, 0#32, 0#32⟩

/-- A pad playback voice `PVC[m]` (R34); `pos` is the two's-complement s32 `POS`. -/
structure PadVoice where
  src : BitVec 3
  pos : Word
  gain : F32
deriving DecidableEq, Repr

/-- A pad voice after reset and after `EngineClear`: `POS = -1` (R50, R257). -/
def PadVoice.idle : PadVoice := ⟨0#3, 0xFFFFFFFF#32, 0#32⟩

/-- The filter state of one channel `FLT[c]` (R37). -/
structure Biquad where
  x1 : F32
  x2 : F32
  y1 : F32
  y2 : F32
deriving DecidableEq, Repr

/-- The filter state after reset (R50). -/
def Biquad.zero : Biquad := ⟨0#32, 0#32, 0#32, 0#32⟩

/-- The chain registers `0x0030` .. `0x003F` (R38). -/
structure Chain where
  cutoffEff : F32
  coefs : Coefs
  width : F32
  mid : F32
  side : F32
  gainLin : F32
  reverb : ReverbParams
deriving DecidableEq, Repr

/-- The chain registers after reset (R50). -/
def Chain.zero : Chain :=
  ⟨0#32, ⟨0#32, 0#32, 0#32, 0#32, 0#32⟩, 0#32, 0#32, 0#32, 0#32, ⟨0#32, 0#32, 0#32, 0#32, 0#32, 0#32⟩⟩

/-- The eight parameter registers (R41, R42). -/
structure ParamRegs where
  masterVolume : F32
  lowpassCutoff : F32
  atmosphere : F32
  synthLevel : F32
  envAttack : F32
  envDecay : F32
  envSustain : F32
  envRelease : F32
deriving DecidableEq, Repr

/-- The parameter registers after reset (R41, R42, R50). -/
def ParamRegs.atReset : ParamRegs :=
  ⟨0x3F400000#32, 0x469C4000#32, 0x00000000#32, 0x3F000000#32, 0x3C23D70A#32, 0x3DCCCCCD#32, 0x3F4CCCCD#32, 0x3E4CCCCD#32⟩

/-- `PM_ADDR` and the four staging registers (R43). -/
structure Staging where
  pmAddr : Word
  base : Word
  frames : Word
  chans : Word
  fileid : Word
deriving DecidableEq, Repr

/-- The staging registers after reset (R50). -/
def Staging.zero : Staging := ⟨0#32, 0#32, 0#32, 0#32, 0#32⟩

/-- The error registers (R32). -/
structure ErrorRegs where
  error : Word
  errfirst : Word
  infoLo : Word
  infoHi : Word
deriving DecidableEq, Repr

/-- The error registers after reset (R50). -/
def ErrorRegs.zero : ErrorRegs := ⟨0#32, 0#32, 0#32, 0#32⟩

/-- The state of the block: what rule R20 lists, and the model's own fields at the end (log 1, 7, 9, 14). -/
structure State where
  /-- The open parameters of R7; no command writes them (the model's own field, log 1). -/
  params : Params
  /-- `PREPARED` (R21). -/
  prepared : Bool
  /-- `FS` (R21). -/
  fs : F32
  /-- `MAXBLOCK` (R21). -/
  maxBlock : BitVec 13
  /-- `V[0] .. V[7]` (R22). -/
  voices : List Voice
  /-- `SYNTH_NEXT` (R26). -/
  synthNext : BitVec 3
  /-- `PAD[0] .. PAD[7]` (R33). -/
  pads : List PadSlot
  /-- `PVC[0] .. PVC[PV-1]` (R34). -/
  padVoices : List PadVoice
  /-- `PAD_NEXT` (R35). -/
  padNext : BitVec 5
  /-- `FLT[0] .. FLT[NCH-1]` (R37). -/
  flt : List Biquad
  /-- The chain registers (R38). -/
  chain : Chain
  /-- `RVS` (R39). -/
  rvs : Rvs
  /-- The parameter registers (R41, R42). -/
  regs : ParamRegs
  /-- `PM_ADDR` and the `STG_` registers (R43). -/
  staging : Staging
  /-- `OUT[0] .. OUT[NCH-1]`, one sparse row per channel (R45, log 15). -/
  out : List Memory
  /-- `OUT_COUNT` (R45). -/
  outCount : BitVec 13
  /-- `LOADOK0` (R31). -/
  loadOk0 : Bool
  /-- `LOADOK1` (R31). -/
  loadOk1 : Bool
  /-- `ERROR`, `ERRFIRST`, `ERRINFO_LO`, `ERRINFO_HI` (R32). -/
  err : ErrorRegs
  /-- `CQ0` (R46), oldest first. -/
  cq0 : List Cmd
  /-- `CQ1` (R46), oldest first. -/
  cq1 : List Cmd
  /-- `RQ0` (R46), oldest first. -/
  rq0 : List Word
  /-- `RQ1` (R46), oldest first. -/
  rq1 : List Word
  /-- `PM` (R47): the words written since reset; an unlisted word reads as a free value (log 5). -/
  pm : Memory
  /-- The number of external resets so far: it selects the free contents of `PM` (the model's own field, log 14). -/
  pmEpoch : Nat
  /-- The number of free choices between the queues so far (the model's own field, log 7). -/
  arbCount : Nat
  /-- The port of the command being executed, `port` of R12 (the model's own field, log 9). -/
  curPort : Port
  /-- The word of the command being executed, `cmd` of R296 (the model's own field, log 9). -/
  curCmd : Cmd
deriving DecidableEq, Repr

/-- `RVS_INIT` (R244): the one element of the bypass's state type, or a free value. -/
def rvsInitOf (p : Params) : Rvs :=
  match p.reverb with
  | .bypass => []
  | .free => Config.rvsInit

/-- The state after reset for given open parameters (R50). -/
def State.resetWith (p : Params) : State where
  params := p
  prepared := false
  fs := 0#32
  maxBlock := 0#13
  voices := List.replicate 8 Voice.zero
  synthNext := 0#3
  pads := List.replicate 8 PadSlot.empty
  padVoices := List.replicate p.pv PadVoice.idle
  padNext := 0#5
  flt := List.replicate p.nch Biquad.zero
  chain := Chain.zero
  rvs := rvsInitOf p
  regs := ParamRegs.atReset
  staging := Staging.zero
  out := List.replicate p.nch []
  outCount := 0#13
  loadOk0 := false
  loadOk1 := false
  err := ErrorRegs.zero
  cq0 := []
  cq1 := []
  rq0 := []
  rq1 := []
  pm := []
  pmEpoch := 0
  arbCount := 0
  curPort := .p0
  curCmd := 0#64

/-- The machine right after reset (R50, R320), with the default parameters of R7. -/
def State.reset : State := State.resetWith Params.spec

/-- Why the model stops with a fault. The block's own faults (60 R290) are no stops: each is a next state. -/
inductive Fault where
  /-- Raised by `RENDER` alone, when an active pad voice would read a word of pad sample memory that does not exist (an address
  not below `PADMEM_WORDS`). Rules R36 and R210 say that no reachable state does. Safe (log 11). -/
  | pmAddress
deriving DecidableEq, Repr

/-- Why the model refuses. -/
inductive Refusal where
  /-- Raised by an arm of `exec` whose instruction has no meaning yet; no arm does. Safe. -/
  | notModelled (mnemonic : String)
deriving DecidableEq, Repr

end Sys2Proof.Machine
end

