-- ==== Sys2Proof/Machine/Float.lean ====
section
/-!
DEFINITION. IEEE 754 binary32 arithmetic (spec/00_scope.md R9 to R11, spec/47_system.md R286): every operation is the exact result
rounded once, to nearest, ties to even; subnormals are kept; one canonical NaN; no flags. An operand is read as an exact whole
number of units of 2^-149 (the smallest subnormal), the result is computed exactly, and `roundMag` narrows it once.
-/
namespace Sys2Proof.Machine

/-- The canonical quiet NaN (R9). -/
def fNaN : F32 := 0x7FC00000#32

/-- `+0.0` (R10). -/
def fZero : F32 := 0x00000000#32

/-- `0.5` (R10). -/
def fHalf : F32 := 0x3F000000#32

/-- `1.0` (R10). -/
def fOne : F32 := 0x3F800000#32

/-- `2.0` (R10). -/
def fTwo : F32 := 0x40000000#32

/-- The sign bit. -/
def fSign (x : F32) : Bool := decide (2 ^ 31 ≤ x.toNat)

/-- Exponent and fraction fields together, bits 30:0. -/
def fMagBits (x : F32) : Nat := x.toNat % 2 ^ 31

/-- `isNaN(x)` (R11). -/
def isNaN (x : F32) : Bool := decide (0x7F800000 < fMagBits x)

/-- `x` is `+inf` or `-inf`. -/
def isInf (x : F32) : Bool := decide (fMagBits x = 0x7F800000)

/-- `isFinite(x)` (R11). -/
def isFinite (x : F32) : Bool := decide (fMagBits x < 0x7F800000)

/-- The magnitude of a finite value in units of 2^-149. -/
def fMag (x : F32) : Nat :=
  let e := fMagBits x / 2 ^ 23
  let f := fMagBits x % 2 ^ 23
  if e = 0 then f else (2 ^ 23 + f) * 2 ^ (e - 1)

/-- The value of a finite `x` in units of 2^-149. -/
def fScaled (x : F32) : Int := if fSign x then -(fMag x : Int) else (fMag x : Int)

/-- The pattern with a given sign and given bits 30:0. -/
def fMake (neg : Bool) (bits : Nat) : F32 := BitVec.ofNat 32 (if neg then 2 ^ 31 + bits else bits)

/-- An infinity of the given sign. -/
def fInf (neg : Bool) : F32 := fMake neg 0x7F800000

/-- The whole number nearest `num / den`, ties to even (R9). -/
def roundNearestEven (num den : Nat) : Nat :=
  let q := num / den
  let r := num % den
  if 2 * r < den then q else if den < 2 * r then q + 1 else q + q % 2

/-- Bits 30:0 of the magnitude `num / den`, in units of 2^-149, rounded once to binary32 (R9); an overflow gives infinity. A
magnitude of `k + 24` bits has a unit in the last place of `2^k`, and the pattern of `r` such units is `k * 2^23 + r`. -/
def roundMag (num den : Nat) : Nat :=
  let k := Nat.log2 (num / den) - 23
  let r := roundNearestEven num (den * 2 ^ k)
  min (k * 2 ^ 23 + r) 0x7F800000

/-- The exact value `num / den`, in units of 2^-149, rounded once (R9, R10); an exact zero is `+0.0`. -/
def roundSigned (num : Int) (den : Nat) : F32 := fMake (decide (num < 0)) (roundMag num.natAbs den)

/-- `F("n/d")`: the rational `n / d` rounded once to binary32 (R10). -/
def fLit (n : Int) (d : Nat) : F32 := roundSigned (n * 2 ^ 149) d

/-- The negation of a value (the sign bit flipped). -/
def fNeg (x : F32) : F32 := x ^^^ 0x80000000#32

/-- `fadd` (R9). An exact zero sum is `-0.0` only when both operands are negative. -/
def fadd (a b : F32) : F32 :=
  if isNaN a || isNaN b then fNaN
  else if isInf a then (if isInf b && decide (fSign a ≠ fSign b) then fNaN else a)
  else if isInf b then b
  else
    let sum := fScaled a + fScaled b
    if sum = 0 then fMake (fSign a && fSign b) 0 else roundSigned sum 1

/-- `fsub` (R9): `a - b` is `a + (-b)`. -/
def fsub (a b : F32) : F32 := fadd a (fNeg b)

/-- `fmul` (R9). -/
def fmul (a b : F32) : F32 :=
  let neg := fSign a != fSign b
  if isNaN a || isNaN b then fNaN
  else if isInf a || isInf b then
    (if fMagBits a = 0 ∨ fMagBits b = 0 then fNaN else fInf neg)
  else fMake neg (roundMag (fMag a * fMag b) (2 ^ 149))

/-- `fdiv` (R9). -/
def fdiv (a b : F32) : F32 :=
  let neg := fSign a != fSign b
  if isNaN a || isNaN b then fNaN
  else if isInf a then (if isInf b then fNaN else fInf neg)
  else if isInf b then fMake neg 0
  else if fMagBits b = 0 then (if fMagBits a = 0 then fNaN else fInf neg)
  else fMake neg (roundMag (fMag a * 2 ^ 149) (fMag b))

/-- The place of a number among the numbers: patterns of one sign are ordered as their bits 30:0, and the two zeros are equal. -/
def fKey (x : F32) : Int := if fSign x then -(fMagBits x : Int) else (fMagBits x : Int)

/-- `a < b` (R9): false with a NaN operand. -/
def flt (a b : F32) : Bool := !isNaN a && !isNaN b && decide (fKey a < fKey b)

/-- `a <= b` (R9). -/
def fle (a b : F32) : Bool := !isNaN a && !isNaN b && decide (fKey a ≤ fKey b)

/-- `a > b` (R9). -/
def fgt (a b : F32) : Bool := flt b a

/-- `a >= b` (R9). -/
def fge (a b : F32) : Bool := fle b a

/-- `a == b` (R9): false with a NaN operand, true of the two zeros. -/
def feq (a b : F32) : Bool := !isNaN a && !isNaN b && decide (fKey a = fKey b)

/-- `clamp(x, lo, hi)` (R11): a NaN `x` is returned unchanged. -/
def fclamp (x lo hi : F32) : F32 := if flt x lo then lo else if fgt x hi then hi else x

/-- `floor32(x)` (R11), exact on a finite `x`. Total: a non-finite `x` is returned unchanged (log 18). -/
def floor32 (x : F32) : F32 :=
  if isFinite x then roundSigned ((fScaled x / 2 ^ 149) * 2 ^ 149) 1 else x

/-- `frac(x)` (R11). -/
def frac (x : F32) : F32 := fsub x (floor32 x)

end Sys2Proof.Machine
end

