-- ==== Sys2Proof/Machine/Ops.lean ====
section
/-!
DEFINITION. The named operations over memories, records, queues and the error registers: reading and writing `PM` and `OUT`, the
fault entry of the block (spec/60_exceptions.md R296), port admission (spec/30_encoding.md R126), serving a queue (spec/00_scope.md
R15) and what the host does to a port.
-/
namespace Sys2Proof.Machine

/-! ### Sparse memories -/

/-- The word listed at an address, if any. -/
def Memory.lookup : Memory → Nat → Option Word
  | [], _ => none
  | e :: m, a => if e.1 = a then some e.2 else Memory.lookup m a

/-- List a word at an address, replacing what was listed there, addresses kept rising. -/
def Memory.insert : Memory → Nat → Word → Memory
  | [], a, v => [(a, v)]
  | e :: m, a, v =>
    if a < e.1 then (a, v) :: e :: m
    else if a = e.1 then (a, v) :: m
    else e :: Memory.insert m a v

/-- The entries of a run of words from an address up, +0.0 left out (log 15). -/
def Memory.blockCells : Nat → List Word → Memory
  | _, [] => []
  | a, v :: vs => if v = 0#32 then Memory.blockCells (a + 1) vs else (a, v) :: Memory.blockCells (a + 1) vs

/-- An output row after a block has been written to its entries `0 .. N-1`; the entries from `N` on are as before (R45). -/
def Memory.storeBlock (row : Memory) (block : List F32) : Memory :=
  Memory.blockCells 0 block ++ row.filter (fun e => decide (block.length ≤ e.1))

/-- `OUT[c][i]` of one row; an unlisted entry reads +0.0 (R50). -/
def Memory.readOut (row : Memory) (i : Nat) : F32 := (Memory.lookup row i).getD 0#32

/-- `MemRead(a, 1)` (R82): the word written there, or the free value of a word that nothing has written (R99, 93 U1, log 5). -/
def pmRead (s : State) (a : Nat) : Word := (Memory.lookup s.pm a).getD (Config.pmInit s.pmEpoch a)

/-- `MemWrite(a, 1, w)` (R82). -/
def pmWrite (a : Nat) (w : Word) (s : State) : State := { s with pm := Memory.insert s.pm a w }

/-- Whether a word address of pad sample memory exists (R82). -/
def pmExists (s : State) (a : Nat) : Bool := decide (a < s.params.padMemWords)

/-! ### Records -/

/-- `V[k]` (R22). -/
def State.voice (s : State) (k : Nat) : Voice := s.voices.getD k Voice.zero

/-- `PAD[p]` (R33). -/
def State.pad (s : State) (p : Nat) : PadSlot := s.pads.getD p PadSlot.empty

/-- `PVC[m]` (R34). -/
def State.padVoice (s : State) (m : Nat) : PadVoice := s.padVoices.getD m PadVoice.idle

/-- `FLT[c]` (R37). -/
def State.filter (s : State) (c : Nat) : Biquad := s.flt.getD c Biquad.zero

/-- `OUT[c][i]` (R45). -/
def State.outWord (s : State) (c i : Nat) : F32 := Memory.readOut (s.out.getD c []) i

/-- `V[k] <- v`. -/
def setVoice (k : Nat) (v : Voice) (s : State) : State := { s with voices := s.voices.set k v }

/-- `PAD[p] <- d`: the whole descriptor at once (R203, R205). -/
def setPad (p : Nat) (d : PadSlot) (s : State) : State := { s with pads := s.pads.set p d }

/-- `PVC[m] <- v`. -/
def setPadVoice (m : Nat) (v : PadVoice) (s : State) : State := { s with padVoices := s.padVoices.set m v }

/-- A pad voice is active when `POS >= 0` (R34). -/
def PadVoice.active (v : PadVoice) : Bool := decide (0 ≤ v.pos.toInt)

/-! ### The fault entry (60 R290 to R297) -/

/-- The seven fault codes of R291. -/
inductive FaultCode where
  | illegalCmd
  | portViolation
  | notPrepared
  | badOperand
  | blockTooLarge
  | badReg
  | pmRange
deriving DecidableEq, Repr

/-- The number of a fault code (R291). -/
def FaultCode.number : FaultCode → Nat
  | .illegalCmd => 1
  | .portViolation => 2
  | .notPrepared => 3
  | .badOperand => 4
  | .blockTooLarge => 5
  | .badReg => 6
  | .pmRange => 7

/-- The error registers after `raise Fault(code)` by the command `cmd` from `port` (R296): the first fault since reset records its
code, port and word; every fault sets its sticky bit of `ERROR`. -/
def errorEntry (code : FaultCode) (port : Port) (cmd : Cmd) (e : ErrorRegs) : ErrorRegs :=
  let first := decide (e.error = 0#32)
  { error := e.error ||| BitVec.ofNat 32 (2 ^ code.number)
    errfirst := if first then BitVec.ofNat 32 (code.number + port.number * 256) else e.errfirst
    infoLo := if first then cmd.extractLsb' 0 32 else e.infoLo
    infoHi := if first then cmd.extractLsb' 32 32 else e.infoHi }

/-- `raise Fault(code)` (R296): the error registers and nothing else. Nothing is saved, no mode changes and control goes on to the
next command, so there is no return from it (R297). -/
def raiseFault (code : FaultCode) (s : State) : State := { s with err := errorEntry code s.curPort s.curCmd s.err }

/-- A command refused with a fault: the state after the fault entry (R290). -/
def takeFault (code : FaultCode) (s : State) : Host.Outcome State Fault Refusal := .next (raiseFault code s)

/-- Port admission of a command that only P0 may issue (R126, R120 step 2, R301). -/
def onP0 (s : State) (run : Host.Outcome State Fault Refusal) : Host.Outcome State Fault Refusal :=
  if s.curPort = .p0 then run else takeFault .portViolation s

/-- The check of a command that needs a prepared engine (R302, R293 step 3). -/
def whenPrepared (s : State) (run : Host.Outcome State Fault Refusal) : Host.Outcome State Fault Refusal :=
  if s.prepared then run else takeFault .notPrepared s

/-! ### Queues (10 R46, 00 R14, R15) -/

/-- `push(RQ[port], w)` (R12, R46). -/
def pushResponse (port : Port) (w : Word) (s : State) : State :=
  { s with
    rq0 := if port = .p0 then s.rq0 ++ [w] else s.rq0
    rq1 := if port = .p1 then s.rq1 ++ [w] else s.rq1 }

/-- Both command queues hold a command: which is served is open (R15). -/
def queuesContend (s : State) : Bool := !s.cq0.isEmpty && !s.cq1.isEmpty

/-- The queue the engine serves next: none when both are empty, the non-empty one, or a free choice (R15, 93 U12, log 7). -/
def nextPort (s : State) : Option Port :=
  if queuesContend s then (if Config.arbiter s.arbCount then some .p1 else some .p0)
  else if !s.cq0.isEmpty then some .p0
  else if !s.cq1.isEmpty then some .p1
  else none

/-- `pop(CQ[port])` (R12): the head becomes the command being executed, and a free choice between the queues is counted. -/
def popCommand (port : Port) (s : State) : State :=
  { s with
    cq0 := if port = .p0 then s.cq0.tail else s.cq0
    cq1 := if port = .p1 then s.cq1.tail else s.cq1
    arbCount := if queuesContend s then s.arbCount + 1 else s.arbCount
    curPort := port
    curCmd := (if port = .p0 then s.cq0 else s.cq1).headD 0#64 }

/-- The command is over: no command is being executed (log 9). -/
def retire (s : State) : State := { s with curPort := .p0, curCmd := 0#64 }

/-- An outcome with the command over in its next state. -/
def retireOutcome (o : Host.Outcome State Fault Refusal) : Host.Outcome State Fault Refusal :=
  match o with
  | .next s => .next (retire s)
  | .fault r => .fault r
  | .refused r => .refused r

/-! ### What the host does (00 R14, 70 R320); never part of a step -/

/-- The host pushes a command word on a port (R14, R46). -/
def hostPush (port : Port) (w : Cmd) (s : State) : State :=
  { s with
    cq0 := if port = .p0 then s.cq0 ++ [w] else s.cq0
    cq1 := if port = .p1 then s.cq1 ++ [w] else s.cq1 }

/-- The host takes the oldest response of a port, if there is one (R14, R46). -/
def hostPop (port : Port) (s : State) : Option (Word × State) :=
  match (if port = .p0 then s.rq0 else s.rq1) with
  | [] => none
  | w :: rest =>
    some (w, { s with
      rq0 := if port = .p0 then rest else s.rq0
      rq1 := if port = .p1 then rest else s.rq1 })

/-- The external reset signal (R320): every piece of state takes its reset value, the contents of `PM` become unspecified anew
(log 14). The parameters of R7 are no state and stay. -/
def externalReset (s : State) : State :=
  { State.resetWith s.params with pmEpoch := s.pmEpoch + 1, arbCount := s.arbCount }

end Sys2Proof.Machine
end

