-- ==== Sys2Proof/Machine/Flags.lean ====
section
/-!
DEFINITION. The status flags and masks a host reads (spec/10_state.md R31, R40, R44): `STATUS`, `SYNTH_ACTIVE`, `PAD_ACTIVE` and
the load flags. The block has no arithmetic flags (R31, R286).
-/
namespace Sys2Proof.Machine

/-- A flag as a number. -/
def bitOf (b : Bool) : Nat := if b then 1 else 0

/-- Bit `k` of the result is the `k`-th flag of the list. -/
def maskOf : List Bool → Nat
  | [] => 0
  | b :: bs => bitOf b + 2 * maskOf bs

/-- `STATUS` (R31): bit 0 `PREPARED`, bit 1 `LOADOK0`, bit 2 `LOADOK1`, bit 3 `FAULT`, which is 1 when `ERROR` is not zero. -/
def statusWord (s : State) : Word :=
  BitVec.ofNat 32 (maskOf [s.prepared, s.loadOk0, s.loadOk1, decide (s.err.error ≠ 0#32)])

/-- `SYNTH_ACTIVE` (R40): bit `k` is `V[k].ACTIVE`. -/
def synthActiveWord (s : State) : Word := BitVec.ofNat 32 (maskOf (s.voices.map (fun v => v.active)))

/-- `PAD_ACTIVE` (R40): bit `m` is 1 when `PVC[m].POS >= 0`. -/
def padActiveWord (s : State) : Word := BitVec.ofNat 32 (maskOf (s.padVoices.map PadVoice.active))

/-- `LOADOK[port] <- ok` (R31, R203). -/
def setLoadOk (port : Port) (ok : Bool) (s : State) : State :=
  { s with
    loadOk0 := if port = .p0 then ok else s.loadOk0
    loadOk1 := if port = .p1 then ok else s.loadOk1 }

end Sys2Proof.Machine
end

