-- ==== Sys2Proof/Machine/Operands.lean ====
section
/-!
DEFINITION. The register operands: the register map of spec/10_state.md R40 as a function from addresses to named registers, the
value each reads as (R31 to R45), and the legal range and the storage of each parameter register (R41, R42, R276, R277).
-/
namespace Sys2Proof.Machine

/-- The eight parameter registers (R41, R42). -/
inductive ParamReg where
  | masterVolume
  | lowpassCutoff
  | atmosphere
  | synthLevel
  | envAttack
  | envDecay
  | envSustain
  | envRelease
deriving DecidableEq, Repr

/-- A mapped register or view of R40. -/
inductive Reg where
  | id
  | status
  | error
  | errfirst
  | errinfoLo
  | errinfoHi
  | synthActive
  | padActive
  | synthNext
  | padNext
  | fs
  | maxBlock
  | outCount
  | param (r : ParamReg)
  | pmAddr
  | pmData
  | stgBase
  | stgFrames
  | stgChans
  | stgFileid
  /-- `0x0030 + j` (R38). -/
  | chain (j : Nat)
  /-- `FLT[c].X1`, `.X2`, `.Y1`, `.Y2` for `j` = 0 to 3 (R37). -/
  | flt (c j : Nat)
  /-- `PAD[p].LOADED`, `.BASE`, `.FRAMES`, `.CHANS`, `.FILEID` for `j` = 0 to 4 (R33). -/
  | pad (p j : Nat)
  /-- Word `j` of the voice view (R44). -/
  | voice (k j : Nat)
  /-- `PVC[m].SRC`, `.POS`, `.GAIN` for `j` = 0 to 2 (R34). -/
  | padVoice (m j : Nat)
  /-- `OUT[c][i]` (R45). -/
  | out (c i : Nat)
deriving DecidableEq, Repr

/-- The registers at fixed addresses below `0x0030` (R40). -/
def regLow (addr : Nat) : Option Reg :=
  match addr with
  | 0x00 => some .id
  | 0x01 => some .status
  | 0x02 => some .error
  | 0x03 => some .errfirst
  | 0x04 => some .errinfoLo
  | 0x05 => some .errinfoHi
  | 0x06 => some .synthActive
  | 0x07 => some .padActive
  | 0x08 => some .synthNext
  | 0x09 => some .padNext
  | 0x0A => some .fs
  | 0x0B => some .maxBlock
  | 0x0C => some .outCount
  | 0x10 => some (.param .masterVolume)
  | 0x11 => some (.param .lowpassCutoff)
  | 0x12 => some (.param .atmosphere)
  | 0x13 => some (.param .synthLevel)
  | 0x18 => some (.param .envAttack)
  | 0x19 => some (.param .envDecay)
  | 0x1A => some (.param .envSustain)
  | 0x1B => some (.param .envRelease)
  | 0x20 => some .pmAddr
  | 0x21 => some .pmData
  | 0x24 => some .stgBase
  | 0x25 => some .stgFrames
  | 0x26 => some .stgChans
  | 0x27 => some .stgFileid
  | _ => none

/-- An indexed window of R40: entry `off / stride` with word `off % stride`, mapped for `n` entries of `used` words. -/
def regWindow (off stride n used : Nat) (mk : Nat → Nat → Reg) : Option Reg :=
  if off / stride < n ∧ off % stride < used then some (mk (off / stride) (off % stride)) else none

/-- The register map of R40; `none` is unmapped. The indices that depend on a parameter are mapped only where they exist. DESIGN CHOICE
(log 27): of a row of `OUT` the entries `i < HW_MAXBLOCK` exist (R45, R83), so with `HW_MAXBLOCK` below 4096 the addresses of the entries
`HW_MAXBLOCK .. 4095`, which the row of R40 names too, are unmapped. -/
def Reg.ofAddr (p : Params) (addr : Nat) : Option Reg :=
  if addr < 0x30 then regLow addr
  else if addr < 0x40 then some (.chain (addr - 0x30))
  else if addr < 0x100 then regWindow (addr - 0x40) 4 p.nch 4 .flt
  else if addr < 0x200 then regWindow (addr - 0x100) 8 8 5 .pad
  else if addr < 0x300 then regWindow (addr - 0x200) 16 8 14 .voice
  else if addr < 0x8000 then regWindow (addr - 0x300) 4 p.pv 3 .padVoice
  else regWindow (addr - 0x8000) 0x1000 p.nch p.hwMaxBlock .out

/-- The address of a parameter register (R40). -/
def ParamReg.addr : ParamReg → Nat
  | .masterVolume => 0x10
  | .lowpassCutoff => 0x11
  | .atmosphere => 0x12
  | .synthLevel => 0x13
  | .envAttack => 0x18
  | .envDecay => 0x19
  | .envSustain => 0x1A
  | .envRelease => 0x1B

/-- The address of a register (R40): what a register operand of the assembler stands for (R124). DESIGN CHOICE (log 29): at an index
that R40 does not have (`V[9].PHASE`, `OUT[20][0]`) the address formula of its row is taken all the same, without a check. -/
def Reg.addr : Reg → Nat
  | .id => 0x00
  | .status => 0x01
  | .error => 0x02
  | .errfirst => 0x03
  | .errinfoLo => 0x04
  | .errinfoHi => 0x05
  | .synthActive => 0x06
  | .padActive => 0x07
  | .synthNext => 0x08
  | .padNext => 0x09
  | .fs => 0x0A
  | .maxBlock => 0x0B
  | .outCount => 0x0C
  | .param r => r.addr
  | .pmAddr => 0x20
  | .pmData => 0x21
  | .stgBase => 0x24
  | .stgFrames => 0x25
  | .stgChans => 0x26
  | .stgFileid => 0x27
  | .chain j => 0x30 + j
  | .flt c j => 0x40 + 4 * c + j
  | .pad p j => 0x100 + 8 * p + j
  | .voice k j => 0x200 + 16 * k + j
  | .padVoice m j => 0x300 + 4 * m + j
  | .out c i => 0x8000 + 0x1000 * c + i

/-- Whether `WRREG` may write a register: the fourteen RW addresses of R276. -/
def Reg.writable : Reg → Bool
  | .param _ => true
  | .pmAddr => true
  | .pmData => true
  | .stgBase => true
  | .stgFrames => true
  | .stgChans => true
  | .stgFileid => true
  | .id => false
  | .status => false
  | .error => false
  | .errfirst => false
  | .errinfoLo => false
  | .errinfoHi => false
  | .synthActive => false
  | .padActive => false
  | .synthNext => false
  | .padNext => false
  | .fs => false
  | .maxBlock => false
  | .outCount => false
  | .chain _ => false
  | .flt _ _ => false
  | .pad _ _ => false
  | .voice _ _ => false
  | .padVoice _ _ => false
  | .out _ _ => false

/-- The value of a parameter register. -/
def ParamReg.read (r : ParamReg) (p : ParamRegs) : F32 :=
  match r with
  | .masterVolume => p.masterVolume
  | .lowpassCutoff => p.lowpassCutoff
  | .atmosphere => p.atmosphere
  | .synthLevel => p.synthLevel
  | .envAttack => p.envAttack
  | .envDecay => p.envDecay
  | .envSustain => p.envSustain
  | .envRelease => p.envRelease

/-- The parameter registers with one of them set. -/
def ParamReg.write (r : ParamReg) (v : F32) (p : ParamRegs) : ParamRegs :=
  match r with
  | .masterVolume => { p with masterVolume := v }
  | .lowpassCutoff => { p with lowpassCutoff := v }
  | .atmosphere => { p with atmosphere := v }
  | .synthLevel => { p with synthLevel := v }
  | .envAttack => { p with envAttack := v }
  | .envDecay => { p with envDecay := v }
  | .envSustain => { p with envSustain := v }
  | .envRelease => { p with envRelease := v }

/-- `lo` of a parameter register's legal range (R41, R42, R276). -/
def ParamReg.lo : ParamReg → F32
  | .masterVolume => 0x00000000#32
  | .lowpassCutoff => 0x42C80000#32
  | .atmosphere => 0x00000000#32
  | .synthLevel => 0x00000000#32
  | .envAttack => 0x00000000#32
  | .envDecay => 0x00000000#32
  | .envSustain => 0x00000000#32
  | .envRelease => 0x00000000#32

/-- `hi` of a parameter register's legal range (R41, R42, R276). -/
def ParamReg.hi : ParamReg → F32
  | .masterVolume => 0x3F800000#32
  | .lowpassCutoff => 0x469C4000#32
  | .atmosphere => 0x3F800000#32
  | .synthLevel => 0x3F800000#32
  | .envAttack => Config.fMax
  | .envDecay => Config.fMax
  | .envSustain => 0x3F800000#32
  | .envRelease => Config.fMax

/-- The value `WriteParam` stores for a number `v` (R277): saturated to `[lo, hi]`; `v <= lo` gives `lo`, so `-0.0` gives `+0.0`. -/
def legalise (v lo hi : F32) : F32 := if fle v lo then lo else if fge v hi then hi else v

/-- A narrow field zero-extended to a response word (R278). -/
def zext32 {n : Nat} (x : BitVec n) : Word := x.setWidth 32

/-- Word `j` of the voice view (R44). -/
def voiceWord (v : Voice) (j : Nat) : Word :=
  match j with
  | 0 => v.phase
  | 1 => v.freq
  | 2 => v.velgain
  | 3 => zext32 v.note
  | 4 => BitVec.ofNat 32 (bitOf v.active)
  | 5 => BitVec.ofNat 32 v.env.stage.code
  | 6 => v.env.level
  | 7 => v.env.attack
  | 8 => v.env.decay
  | 9 => v.env.sustain
  | 10 => v.env.release
  | 11 => v.env.arate
  | 12 => v.env.drate
  | 13 => v.env.rrate
  | _ => 0#32

/-- Word `j` of a pad slot (R33, R40). -/
def padWord (d : PadSlot) (j : Nat) : Word :=
  match j with
  | 0 => BitVec.ofNat 32 (bitOf d.loaded)
  | 1 => d.base
  | 2 => d.frames
  | 3 => d.chans
  | 4 => d.fileid
  | _ => 0#32

/-- Word `j` of a pad playback voice (R34, R40); `POS` is two's complement. -/
def padVoiceWord (v : PadVoice) (j : Nat) : Word :=
  match j with
  | 0 => zext32 v.src
  | 1 => v.pos
  | 2 => v.gain
  | _ => 0#32

/-- Word `j` of a channel's filter state (R37, R40). -/
def filterWord (b : Biquad) (j : Nat) : Word :=
  match j with
  | 0 => b.x1
  | 1 => b.x2
  | 2 => b.y1
  | 3 => b.y2
  | _ => 0#32

/-- Chain register `0x0030 + j` (R38). -/
def chainWord (c : Chain) (j : Nat) : Word :=
  match j with
  | 0x0 => c.cutoffEff
  | 0x1 => c.coefs.b0
  | 0x2 => c.coefs.b1
  | 0x3 => c.coefs.b2
  | 0x4 => c.coefs.a1
  | 0x5 => c.coefs.a2
  | 0x6 => c.width
  | 0x7 => c.mid
  | 0x8 => c.side
  | 0x9 => c.gainLin
  | 0xA => c.reverb.room
  | 0xB => c.reverb.wet
  | 0xC => c.reverb.dry
  | 0xD => c.reverb.damp
  | 0xE => c.reverb.width
  | 0xF => c.reverb.freeze
  | _ => 0#32

/-- What a mapped address reads as (R31 to R45, R278); for `PM_DATA` the word under `PM_ADDR` (R279). -/
def regValue (s : State) : Reg → Word
  | .id => Config.idValue
  | .status => statusWord s
  | .error => s.err.error
  | .errfirst => s.err.errfirst
  | .errinfoLo => s.err.infoLo
  | .errinfoHi => s.err.infoHi
  | .synthActive => synthActiveWord s
  | .padActive => padActiveWord s
  | .synthNext => zext32 s.synthNext
  | .padNext => zext32 s.padNext
  | .fs => s.fs
  | .maxBlock => zext32 s.maxBlock
  | .outCount => zext32 s.outCount
  | .param r => r.read s.regs
  | .pmAddr => s.staging.pmAddr
  | .pmData => pmRead s s.staging.pmAddr.toNat
  | .stgBase => s.staging.base
  | .stgFrames => s.staging.frames
  | .stgChans => s.staging.chans
  | .stgFileid => s.staging.fileid
  | .chain j => chainWord s.chain j
  | .flt c j => filterWord (s.filter c) j
  | .pad p j => padWord (s.pad p) j
  | .voice k j => voiceWord (s.voice k) j
  | .padVoice m j => padVoiceWord (s.padVoice m) j
  | .out c i => s.outWord c i

end Sys2Proof.Machine
end

