-- ==== Sys2Proof/Machine/Envelope.lean ====
section
/-!
DEFINITION. The envelope generator (spec/40_envelope.md): the micro-operations on an envelope record `V[k].ENV`.
-/
namespace Sys2Proof.Machine

/-- The guard of R152: a rate that computes to NaN is stored as `+0.0`. -/
def guardRate (x : F32) : F32 := if isNaN x then fZero else x

/-- `ARATE` (R141). -/
def attackRate (attack fs : F32) : F32 :=
  if fgt attack fZero then guardRate (fdiv fOne (fmul attack fs)) else fZero

/-- `DRATE` (R141). -/
def decayRate (decay sustain fs : F32) : F32 :=
  if fgt decay fZero then guardRate (fdiv (fsub fOne sustain) (fmul decay fs)) else fZero

/-- `RRATE` (R143). -/
def releaseRate (level release fs : F32) : F32 := guardRate (fdiv level (fmul release fs))

/-- `EnvConfigure(e)` (R141): the registers copied, the two rates computed; `STAGE`, `LEVEL` and `RRATE` kept. -/
def envConfigure (r : ParamRegs) (fs : F32) (e : Env) : Env :=
  { e with
    attack := r.envAttack
    decay := r.envDecay
    sustain := r.envSustain
    release := r.envRelease
    arate := attackRate r.envAttack fs
    drate := decayRate r.envDecay r.envSustain fs }

/-- `EnvNoteOn(e)` (R142): Attack from the level held; a zero-length stage is skipped. -/
def envNoteOn (e : Env) : Env :=
  if fgt e.attack fZero then { e with stage := .attack }
  else if fgt e.decay fZero then { e with level := fOne, stage := .decay }
  else { e with level := e.sustain, stage := .sustain }

/-- `EnvReset(e)` (R144). -/
def envReset (e : Env) : Env := { e with stage := .idle, level := fZero }

/-- `EnvNoteOff(e)` (R143). -/
def envNoteOff (fs : F32) (e : Env) : Env :=
  if e.stage = .idle then e
  else if fgt e.release fZero then { e with rrate := releaseRate e.level e.release fs, stage := .release }
  else envReset e

/-- The Attack step (R146). -/
def envAttackStep (e : Env) : Env :=
  let l := fadd e.level e.arate
  if fge l fOne then
    (if fgt e.decay fZero then { e with level := fOne, stage := .decay }
     else { e with level := e.sustain, stage := .sustain })
  else { e with level := l }

/-- The Decay step (R147). -/
def envDecayStep (e : Env) : Env :=
  let l := fsub e.level e.drate
  if fle l e.sustain then { e with level := e.sustain, stage := .sustain } else { e with level := l }

/-- The Sustain step (R148). -/
def envSustainStep (e : Env) : Env := { e with level := e.sustain }

/-- The Release step (R149). -/
def envReleaseStep (e : Env) : Env :=
  let l := fsub e.level e.rrate
  if fle l fZero then { e with level := fZero, stage := .idle } else { e with level := l }

/-- `EnvNextSample(e)` (R145): the envelope after one sample; the value returned is its new `LEVEL`. -/
def envNextSample (e : Env) : Env :=
  match e.stage with
  | .idle => { e with level := fZero }
  | .attack => envAttackStep e
  | .decay => envDecayStep e
  | .sustain => envSustainStep e
  | .release => envReleaseStep e

/-- `EnvIsActive(e)` (R150). -/
def envIsActive (e : Env) : Bool := decide (e.stage ≠ .idle)

end Sys2Proof.Machine
end

