-- ==== Sys2Proof/Machine/Oscillator.lean ====
section
/-!
DEFINITION. The phase-accumulator oscillator and the synth voice (spec/41_oscillator_voice.md). The mix buffer `OUT[c][0 .. N-1]` of a
block under construction is a list of `NCH` rows of `N` samples.
-/
namespace Sys2Proof.Machine

/-- The mix buffer of one block: one row per channel. -/
abbrev Mix := List (List F32)

/-- `inc(v)` (R161). -/
def phaseInc (freq fs : F32) : F32 := fdiv freq fs

/-- `saw(p)` (R163). -/
def saw (p : F32) : F32 := fsub (fmul fTwo p) fOne

/-- The sample a voice contributes at one frame (R164), `e` the envelope's level after this frame's advance. -/
def voiceSample (phase e velgain : F32) : F32 := fmul (fmul (fmul (saw phase) e) velgain) Config.headroom

/-- The phase after one frame (R165). -/
def phaseAdvance (phase inc : F32) : F32 :=
  let t := fadd phase inc
  if isFinite t then frac t else fZero

/-- A voice after one frame (R166): the envelope and the phase advanced. -/
def voiceStep (fs : F32) (v : Voice) : Voice :=
  { v with env := envNextSample v.env, phase := phaseAdvance v.phase (phaseInc v.freq fs) }

/-- The `N` samples of an active voice and the voice after them (R166). -/
def voiceRun (fs : F32) : Nat → Voice → List F32 × Voice
  | 0, v => ([], v)
  | n + 1, v =>
    let v' := voiceStep fs v
    let rest := voiceRun fs n v'
    (voiceSample v.phase v'.env.level v.velgain :: rest.1, rest.2)

/-- The test after the last frame (R167): a voice whose envelope is Idle is free. -/
def voiceFree (v : Voice) : Voice := if envIsActive v.env then v else { v with active := false }

/-- Samples added one by one into the first entries of a row; the rest of the row stays (R166, R210). -/
def addInto : List F32 → List F32 → List F32
  | [], _ => []
  | x :: row, [] => x :: row
  | x :: row, y :: ys => fadd x y :: addInto row ys

/-- `VoiceRender(k, N)` (R166) on one voice record: its samples go into every channel. An inactive voice does nothing. -/
def voiceRender (fs : F32) (n : Nat) (v : Voice) (mix : Mix) : Voice × Mix :=
  if v.active then
    let r := voiceRun fs n v
    (voiceFree r.2, mix.map (fun row => addInto row r.1))
  else (v, mix)

/-- The voices rendered in increasing index (R169, R262). -/
def synthRender (fs : F32) (n : Nat) : List Voice → Mix → List Voice × Mix
  | [], mix => ([], mix)
  | v :: vs, mix =>
    let r := voiceRender fs n v mix
    let rest := synthRender fs n vs r.2
    (r.1 :: rest.1, rest.2)

end Sys2Proof.Machine
end

