-- ==== Sys2Proof/Machine/PadSampler.lean ====
section
/-!
DEFINITION. The pad sampler, its playback pool and the pad commands (spec/43_pad_sampler.md).
-/
namespace Sys2Proof.Machine

/-! ### Micro-operations -/

/-- The voice record a trigger binds (R197): slot `p`, position 0, the clamped gain. -/
def triggeredVoice (p : Nat) (velocity : F32) : PadVoice := ⟨BitVec.ofNat 3 p, 0#32, fclamp velocity fZero fOne⟩

/-- `PAD_NEXT <- (PAD_NEXT + 1) mod PV` (R197). -/
def advancePadNext (s : State) : State := { s with padNext := BitVec.ofNat 5 ((s.padNext.toNat + 1) % s.params.pv) }

/-- `PadTrigger(p, velocity)` (R197): no-op for a bad index or an unloaded slot, else the voice at the cursor, unconditionally. -/
def padTrigger (p : Nat) (velocity : F32) (s : State) : State :=
  if Config.npads ≤ p then s
  else if (s.pad p).loaded then advancePadNext (setPadVoice s.padNext.toNat (triggeredVoice p velocity) s)
  else s

/-- A pad voice forced idle, `SRC` and `GAIN` kept, when it plays slot `p` (R200). -/
def padVoiceInvalidate (p : Nat) (v : PadVoice) : PadVoice :=
  if v.active && decide (v.src.toNat = p) then { v with pos := 0xFFFFFFFF#32 } else v

/-- `PadInvalidate(p)` (R200). -/
def padInvalidate (p : Nat) (s : State) : State := { s with padVoices := s.padVoices.map (padVoiceInvalidate p) }

/-- `LoadRangeOk(b, L, C)` (R204), in unbounded integers. -/
def loadRangeOk (padMemWords b l c : Nat) : Bool := decide (1 ≤ l) && decide (1 ≤ c) && decide (b + l * c ≤ padMemWords)

/-- `L` of `PAD_LOAD` (R203): the staged frame count cut to the cap. -/
def loadFrames (s : State) : Nat := min s.staging.frames.toNat s.params.padCapFrames

/-- `ok` of `PAD_LOAD` (R203). -/
def padLoadOk (pad : Nat) (s : State) : Bool :=
  decide (pad < Config.npads) &&
    loadRangeOk s.params.padMemWords s.staging.base.toNat (loadFrames s) s.staging.chans.toNat

/-- The descriptor that `PAD_LOAD` commits (R203). -/
def stagedSlot (s : State) : PadSlot :=
  { loaded := true
    base := s.staging.base
    frames := BitVec.ofNat 32 (loadFrames s)
    chans := s.staging.chans
    fileid := s.staging.fileid }

/-! ### Rendering (R210, R211) -/

/-- The frames a pad voice plays in a block of `n` (R210): `min(L - pos, N)`, in unbounded integers. -/
def padFrames (slot : PadSlot) (v : PadVoice) (n : Nat) : Int := min ((slot.frames.toNat : Int) - v.pos.toInt) (n : Int)

/-- The word address of frame `pos + i`, output channel `c` (R210, R211, R284 c): source channel `min(c, C - 1)`. -/
def padAddr (slot : PadSlot) (v : PadVoice) (i c : Nat) : Int :=
  (slot.base.toNat : Int) + (v.pos.toInt + (i : Int)) * (slot.chans.toNat : Int) + min (c : Int) ((slot.chans.toNat : Int) - 1)

/-- The slot a pad voice plays (R210). -/
def padSlotOf (s : State) (v : PadVoice) : PadSlot := s.pad v.src.toNat

/-- Every word one pad voice would read in a block of `n` frames exists (R284 c: "proved below `PADMEM_WORDS`"). -/
def padVoiceReadsExist (s : State) (n : Nat) (v : PadVoice) : Bool :=
  !v.active ||
    (List.range (padFrames (padSlotOf s v) v n).toNat).all (fun i =>
      (List.range s.params.nch).all (fun c =>
        decide (0 ≤ padAddr (padSlotOf s v) v i c) && pmExists s (padAddr (padSlotOf s v) v i c).toNat))

/-- Every word the block would read from pad sample memory exists (log 11). -/
def padReadsExist (s : State) (n : Nat) : Bool := s.padVoices.all (padVoiceReadsExist s n)

/-- The samples a pad voice adds to output channel `c`, scaled by its gain (R210). -/
def padSamples (s : State) (v : PadVoice) (count c : Nat) : List F32 :=
  (List.range count).map (fun i => fmul (pmRead s (padAddr (padSlotOf s v) v i c).toNat) v.gain)

/-- A pad voice after it has played `k` frames (R210): idle when the position has reached the buffer's end. -/
def padVoiceAdvance (slot : PadSlot) (v : PadVoice) (k : Int) : PadVoice :=
  let pos := v.pos.toInt + k
  if (slot.frames.toNat : Int) ≤ pos then { v with pos := 0xFFFFFFFF#32 } else { v with pos := BitVec.ofInt 32 pos }

/-- One pad voice of `PadRender(N)` (R210). -/
def padVoiceRender (s : State) (n : Nat) (v : PadVoice) (mix : Mix) : PadVoice × Mix :=
  if v.active then
    let k := padFrames (padSlotOf s v) v n
    (padVoiceAdvance (padSlotOf s v) v k,
     (List.range s.params.nch).map (fun c => addInto (mix.getD c []) (padSamples s v k.toNat c)))
  else (v, mix)

/-- `PadRender(N)` (R210): the pad voices in index order. -/
def padRender (s : State) (n : Nat) : List PadVoice → Mix → List PadVoice × Mix
  | [], mix => ([], mix)
  | v :: vs, mix =>
    let r := padVoiceRender s n v mix
    let rest := padRender s n vs r.2
    (r.1 :: rest.1, rest.2)

/-! ### Commands -/

/-- `PAD_TRIG pad, vel` (R198). -/
def execPadTrig (pad : Nat) (vel : F32) (s : State) : Host.Outcome State Fault Refusal :=
  if isNaN vel then takeFault .badOperand s else .next (padTrigger pad vel s)

/-- `PAD_LOAD pad` (R203): a failed load writes only the load flag of the issuing port. -/
def execPadLoad (pad : Nat) (s : State) : Host.Outcome State Fault Refusal :=
  if padLoadOk pad s then .next (setLoadOk s.curPort true (setPad pad (stagedSlot s) (padInvalidate pad s)))
  else .next (setLoadOk s.curPort false s)

/-- `PAD_CLEAR pad` (R205). -/
def execPadClear (pad : Nat) (s : State) : Host.Outcome State Fault Refusal :=
  if Config.npads ≤ pad then .next s else .next (setPad pad PadSlot.empty (padInvalidate pad s))

end Sys2Proof.Machine
end

