-- ==== Sys2Proof/Machine/Coef.lean ====
section
/-!
DEFINITION. `COEF_FN`, the coefficient function of the biquad (spec/45_filter_chain.md R232, R233). The default is the low-pass of
R233: sine and cosine are computed in fixed point with 640 fraction bits and each coefficient is rounded once to binary32 (log 2).
-/
namespace Sys2Proof.Machine

/-- The unit of the fixed-point numbers of this file: 2^640. -/
def fixOne : Nat := 2 ^ 640

/-- The whole part of pi * 2^640. -/
def fixPi : Nat :=
  0x3243f6a8885a308d313198a2e03707344a4093822299f31d0082efa98ec4e6c89452821e638d01377be5466cf34e90c6cc0ac29b7c97c50dd3f84d5b5b54709179216d5d98979fb1bd1310ba698dfb5ac

/-- The alternating series `t_k - t_(k+2) + t_(k+4) - ...` with `t_(k+2) = t_k * x^2 / ((k+1) * (k+2))`, cut after `fuel` terms. -/
def fixSeries : (fuel k term x2 : Nat) → Int
  | 0, _, _, _ => 0
  | fuel + 1, k, term, x2 => (term : Int) - fixSeries fuel (k + 2) (term * x2 / fixOne / ((k + 1) * (k + 2))) x2

/-- The sine of a fixed-point angle in [0, pi/2). -/
def fixSin (x : Nat) : Int := fixSeries 80 1 x (x * x / fixOne)

/-- The cosine of a fixed-point angle in [0, pi/2). -/
def fixCos (x : Nat) : Int := fixSeries 80 0 fixOne (x * x / fixOne)

/-- Sine and cosine of `num / den` full turns, the turn reduced to its quadrant exactly. -/
def fixSinCosTurns (num den : Nat) : Int × Int :=
  let x := fixPi * (4 * num % den) / (2 * den)
  match 4 * num / den % 4 with
  | 0 => (fixSin x, fixCos x)
  | 1 => (fixCos x, -fixSin x)
  | 2 => (-fixSin x, -fixCos x)
  | _ => (-fixCos x, fixSin x)

/-- The mantissa of `Q_CONST`: `Q = qMant / 2^24` (R7). -/
def qMant : Nat := 0xB504F3

/-- The default `COEF_FN` (R233) of a cutoff and a sample rate, both positive and finite. With `one = 2^640` the unit of `sn` and
`cs`, `a0 = (one * qMant + sn * 2^23) / (one * qMant)`, and `a0` is positive because `qMant` is above 2^23. -/
def coefRbj (cutoff fs : F32) : Coefs :=
  let sc := fixSinCosTurns (fMag cutoff) (fMag fs)
  let sn := sc.1
  let cs := sc.2
  let one : Int := fixOne
  let q : Int := qMant
  let a0 : Nat := (one * q + sn * 2 ^ 23).toNat
  { b0 := fLit ((one - cs) * q) (2 * a0)
    b1 := fLit ((one - cs) * q) a0
    b2 := fLit ((one - cs) * q) (2 * a0)
    a1 := fLit (-2 * cs * q) a0
    a2 := fLit (one * q - sn * 2 ^ 23) a0 }

/-- `COEF_FN` (R232). The formulas of R233 are read for a positive finite cutoff and sample rate, the only ones `RENDER` hands
over (R231, R256); elsewhere the default is a free value too (log 2). -/
def coefFn (p : Params) (cutoff fs : F32) : Coefs :=
  match p.coef with
  | .rbj =>
    if isFinite cutoff && fgt cutoff fZero && isFinite fs && fgt fs fZero then coefRbj cutoff fs
    else Config.coefFree cutoff fs
  | .free => Config.coefFree cutoff fs

end Sys2Proof.Machine
end

