-- ==== Sys2Proof/Machine/Width.lean ====
section
/-!
DEFINITION. The mid/side stereo matrix (spec/44_stereo_width.md).
-/
namespace Sys2Proof.Machine

/-- `F("1.2")` (R10). -/
def f1p2 : F32 := 0x3F99999A#32

/-- `WIDTH` (R221). -/
def widthOf (atmos : F32) : F32 := fadd fOne (fmul atmos f1p2)

/-- `inv` of a width (R221). -/
def widthInv (width : F32) : F32 := fdiv fOne width

/-- `MID` (R221). -/
def midOf (atmos : F32) : F32 := fmul fHalf (fadd fOne (widthInv (widthOf atmos)))

/-- `SIDE` (R221). -/
def sideOf (atmos : F32) : F32 := fmul fHalf (fsub fOne (widthInv (widthOf atmos)))

/-- `L'` (R222). -/
def widthLeft (mid side l r : F32) : F32 := fadd (fmul (fadd l r) mid) (fmul (fsub l r) side)

/-- `R'` (R222). -/
def widthRight (mid side l r : F32) : F32 := fsub (fmul (fadd l r) mid) (fmul (fsub l r) side)

/-- `WidthApply(N)` (R222): channels 0 and 1 from the old pair of each frame; with one channel nothing. -/
def widthApply (nch : Nat) (mid side : F32) (mix : Mix) : Mix :=
  if 2 ≤ nch then
    match mix with
    | l :: r :: rest => List.zipWith (widthLeft mid side) l r :: List.zipWith (widthRight mid side) l r :: rest
    | short => short
  else mix

end Sys2Proof.Machine
end

