-- ==== Sys2Proof/Machine/SignalChain.lean ====
section
/-!
DEFINITION. The signal chain: biquad low-pass, reverb insert, master gain (spec/45_filter_chain.md).
-/
namespace Sys2Proof.Machine

/-! ### Chain registers -/

/-- `F("0.85")` (R10). -/
def f0p85 : F32 := 0x3F59999A#32

/-- `F("0.45")` (R10). -/
def f0p45 : F32 := 0x3EE66666#32

/-- `F("0.3")` (R10). -/
def f0p3 : F32 := 0x3E99999A#32

/-- `0.25` (R10). -/
def f0p25 : F32 := 0x3E800000#32

/-- `100.0` (R10). -/
def f100 : F32 := 0x42C80000#32

/-- `20000.0` (R10). -/
def f20000 : F32 := 0x469C4000#32

/-- `CutoffEff(p_cutoff, p_atmos)` (R231). -/
def cutoffEffOf (cutoff atmos : F32) : F32 := fclamp (fmul cutoff (fsub fOne (fmul atmos fHalf))) f100 f20000

/-- `ReverbParams(p_atmos)` (R240). -/
def reverbParamsOf (atmos : F32) : ReverbParams where
  room := fmul atmos f0p85
  wet := fmul atmos f0p45
  dry := fsub fOne (fmul atmos f0p25)
  damp := fadd fHalf (fmul atmos f0p3)
  width := fadd fHalf (fmul atmos fHalf)
  freeze := fZero

/-- The chain registers a `RENDER` stores (R264, R265): from the snapshot of the parameters and `FS`. -/
def chainOf (p : Params) (fs : F32) (r : ParamRegs) : Chain where
  cutoffEff := cutoffEffOf r.lowpassCutoff r.atmosphere
  coefs := coefFn p (cutoffEffOf r.lowpassCutoff r.atmosphere) fs
  width := widthOf r.atmosphere
  mid := midOf r.atmosphere
  side := sideOf r.atmosphere
  gainLin := r.masterVolume
  reverb := reverbParamsOf r.atmosphere

/-! ### The filter -/

/-- The biquad equation (R234), the four sums left to right. -/
def biquadOut (k : Coefs) (b : Biquad) (x : F32) : F32 :=
  fsub (fsub (fadd (fadd (fmul k.b0 x) (fmul k.b1 b.x1)) (fmul k.b2 b.x2)) (fmul k.a1 b.y1)) (fmul k.a2 b.y2)

/-- The state update (R235). -/
def biquadNext (b : Biquad) (x y : F32) : Biquad := { x1 := x, x2 := b.x1, y1 := y, y2 := b.y1 }

/-- One channel of `FilterApply(N)` (R236). -/
def filterRow (k : Coefs) : Biquad → List F32 → List F32 × Biquad
  | b, [] => ([], b)
  | b, x :: xs =>
    let y := biquadOut k b x
    let rest := filterRow k (biquadNext b x y) xs
    (y :: rest.1, rest.2)

/-- `FilterApply(N)` (R236): the buffer after it. -/
def filterMix (nch : Nat) (k : Coefs) (flt : List Biquad) (mix : Mix) : Mix :=
  (List.range nch).map (fun c => (filterRow k (flt.getD c Biquad.zero) (mix.getD c [])).1)

/-- `FilterApply(N)` (R236): the filter state after it. -/
def filterState (nch : Nat) (k : Coefs) (flt : List Biquad) (mix : Mix) : List Biquad :=
  (List.range nch).map (fun c => (filterRow k (flt.getD c Biquad.zero) (mix.getD c [])).2)

/-! ### The reverb insert -/

/-- A frame of exactly `nch` samples (R244: `frame : NCH x f32`). -/
def fitFrame (nch : Nat) (frame : List F32) : List F32 := (List.range nch).map (fun c => frame.getD c 0#32)

/-- `REVERB_FN` (R244): the bypass, or a free function. -/
def reverbFn (p : Params) (rp : ReverbParams) (rvs : Rvs) (frame : List F32) : Rvs × List F32 :=
  match p.reverb with
  | .bypass => (rvs, frame)
  | .free => ((Config.reverbFree rp rvs frame).1, fitFrame p.nch (Config.reverbFree rp rvs frame).2)

/-- `ReverbApply(N)` (R245): the frames in index order, each with the state the one before left. -/
def reverbApply (p : Params) (rp : ReverbParams) : Nat → Rvs → Mix → Rvs × Mix
  | 0, rvs, mix => (rvs, mix.map (fun _ => []))
  | n + 1, rvs, mix =>
    let r := reverbFn p rp rvs (mix.map (fun row => row.headD 0#32))
    let rest := reverbApply p rp n r.1 (mix.map List.tail)
    (rest.1, List.zipWith List.cons r.2 rest.2)

/-! ### The master gain -/

/-- Every sample of the buffer multiplied by a level (R246; also the synth level of R262). -/
def scaleMix (g : F32) (mix : Mix) : Mix := mix.map (fun row => row.map (fun x => fmul x g))

end Sys2Proof.Machine
end

