-- ==== Sys2Proof/Machine/Render.lean ====
section
/-!
DEFINITION. The render orchestrator: `PREPARE`, `RELEASE`, `RENDER` (spec/46_render_control.md).
-/
namespace Sys2Proof.Machine

/-- `EngineClear()` (R257). -/
def engineClear (s : State) : State :=
  { s with
    voices := List.replicate Config.nv Voice.zero
    synthNext := 0#3
    padVoices := List.replicate s.params.pv PadVoice.idle
    padNext := 0#5
    flt := List.replicate s.params.nch Biquad.zero
    rvs := rvsInitOf s.params }

/-- The operand checks of `PREPARE` (R256): the rate first, then the block size; both give `BAD_OPERAND` (R293). -/
def prepareOk (p : Params) (maxBlock : Nat) (rate : F32) : Bool :=
  (isFinite rate && fgt rate fZero) && (decide (maxBlock ≠ 0) && decide (maxBlock ≤ p.hwMaxBlock))

/-- The configuration `PREPARE` records (R256). -/
def configure (maxBlock : Nat) (rate : F32) (s : State) : State :=
  { s with fs := rate, maxBlock := BitVec.ofNat 13 maxBlock, prepared := true }

/-- `PREPARE rate, maxBlock` (R256). -/
def execPrepare (maxBlock : Nat) (rate : F32) (s : State) : Host.Outcome State Fault Refusal :=
  onP0 s <|
    if prepareOk s.params maxBlock rate then .next (engineClear (configure maxBlock rate s))
    else takeFault .badOperand s

/-- `RELEASE` (R258): `FS` and `MAXBLOCK` keep their values. -/
def execRelease (s : State) : Host.Outcome State Fault Refusal :=
  onP0 s <| .next (engineClear { s with prepared := false })

/-- Step 1 (R260): a mix buffer of zeros. -/
def clearMix (nch n : Nat) : Mix := List.replicate nch (List.replicate n fZero)

/-- Step 3 (R262): the synth voices, then the scaling by `SYNTH_LEVEL`. -/
def renderSynth (s : State) (n : Nat) : List Voice × Mix :=
  let r := synthRender s.fs n s.voices (clearMix s.params.nch n)
  (r.1, scaleMix s.regs.synthLevel r.2)

/-- Step 4 (R263): the pad voices, on top of the scaled synth. -/
def renderPads (s : State) (n : Nat) : List PadVoice × Mix := padRender s n s.padVoices (renderSynth s n).2

/-- The chain registers of the block (R264, R265). -/
def renderChain (s : State) : Chain := chainOf s.params s.fs s.regs

/-- Step 5 (R264): the stereo matrix. -/
def renderWidth (s : State) (n : Nat) : Mix :=
  widthApply s.params.nch (renderChain s).mid (renderChain s).side (renderPads s n).2

/-- Step 9 (R266), first stage: the filter. -/
def renderFilter (s : State) (n : Nat) : Mix := filterMix s.params.nch (renderChain s).coefs s.flt (renderWidth s n)

/-- Step 9 (R266), second stage: the reverb insert. -/
def renderReverb (s : State) (n : Nat) : Rvs × Mix :=
  reverbApply s.params (renderChain s).reverb n s.rvs (renderFilter s n)

/-- Step 9 (R266), third stage: the master gain. The finished block. -/
def renderOut (s : State) (n : Nat) : Mix := scaleMix (renderChain s).gainLin (renderReverb s n).2

/-- A block of `n` frames (R259 steps 1 to 9, R267). Step 2 does nothing (R261). -/
def renderBlock (s : State) (n : Nat) : State :=
  { s with
    voices := (renderSynth s n).1
    padVoices := (renderPads s n).1
    chain := renderChain s
    flt := filterState s.params.nch (renderChain s).coefs s.flt (renderWidth s n)
    rvs := (renderReverb s n).1
    out := (List.range s.params.nch).map (fun c => Memory.storeBlock (s.out.getD c []) ((renderOut s n).getD c []))
    outCount := BitVec.ofNat 13 n }

/-- `RENDER count` (R259). A block that would read a pad memory word that does not exist stops the model; R36 and R247 say that
no reachable state does (log 11). -/
def execRender (count : Nat) (s : State) : Host.Outcome State Fault Refusal :=
  onP0 s <| whenPrepared s <|
    if s.maxBlock.toNat < count then takeFault .blockTooLarge s
    else if padReadsExist s count then .next (renderBlock s count)
    else .fault .pmAddress

end Sys2Proof.Machine
end

