-- ==== Sys2Proof/Machine/System.lean ====
section
/-!
DEFINITION. The system commands `NOP`, `WRREG`, `RDREG` (spec/47_system.md).
-/
namespace Sys2Proof.Machine

/-- `NOP` (R275). -/
def execNop (s : State) : Host.Outcome State Fault Refusal := .next s

/-- `PM_ADDR` one word on, modulo 2^32 (R43, R279). -/
def advancePmAddr (s : State) : State := { s with staging := { s.staging with pmAddr := s.staging.pmAddr + 1#32 } }

/-- The staging registers replaced (R276). -/
def setStaging (g : Staging) (s : State) : State := { s with staging := g }

/-- A parameter register set (R277). -/
def setParam (r : ParamReg) (v : F32) (s : State) : State := { s with regs := r.write v s.regs }

/-- `WriteParam(addr, data, lo, hi)` (R277): a NaN is refused, a number is saturated to the legal range. -/
def writeParam (r : ParamReg) (data : Word) (s : State) : Host.Outcome State Fault Refusal :=
  if isNaN data then takeFault .badOperand s else .next (setParam r (legalise data r.lo r.hi) s)

/-- The write side of `PM_DATA` (R279). -/
def pmDataWrite (data : Word) (s : State) : Host.Outcome State Fault Refusal :=
  if pmExists s s.staging.pmAddr.toNat then .next (advancePmAddr (pmWrite s.staging.pmAddr.toNat data s))
  else takeFault .pmRange s

/-- The read side of `PM_DATA` (R279): a faulting read pushes a zero word before the fault entry. -/
def pmDataRead (s : State) : Host.Outcome State Fault Refusal :=
  if pmExists s s.staging.pmAddr.toNat then
    .next (advancePmAddr (pushResponse s.curPort (pmRead s s.staging.pmAddr.toNat) s))
  else takeFault .pmRange (pushResponse s.curPort 0#32 s)

/-- The write of a mapped register (R276); the read-only ones fault. -/
def writeReg (r : Reg) (data : Word) (s : State) : Host.Outcome State Fault Refusal :=
  match r with
  | .param p => writeParam p data s
  | .pmAddr => .next (setStaging { s.staging with pmAddr := data } s)
  | .pmData => pmDataWrite data s
  | .stgBase => .next (setStaging { s.staging with base := data } s)
  | .stgFrames => .next (setStaging { s.staging with frames := data } s)
  | .stgChans => .next (setStaging { s.staging with chans := data } s)
  | .stgFileid => .next (setStaging { s.staging with fileid := data } s)
  | .id => takeFault .badReg s
  | .status => takeFault .badReg s
  | .error => takeFault .badReg s
  | .errfirst => takeFault .badReg s
  | .errinfoLo => takeFault .badReg s
  | .errinfoHi => takeFault .badReg s
  | .synthActive => takeFault .badReg s
  | .padActive => takeFault .badReg s
  | .synthNext => takeFault .badReg s
  | .padNext => takeFault .badReg s
  | .fs => takeFault .badReg s
  | .maxBlock => takeFault .badReg s
  | .outCount => takeFault .badReg s
  | .chain _ => takeFault .badReg s
  | .flt _ _ => takeFault .badReg s
  | .pad _ _ => takeFault .badReg s
  | .voice _ _ => takeFault .badReg s
  | .padVoice _ _ => takeFault .badReg s
  | .out _ _ => takeFault .badReg s

/-- `WRREG reg, data` (R276). -/
def execWrreg (addr : Nat) (data : Word) (s : State) : Host.Outcome State Fault Refusal :=
  match Reg.ofAddr s.params addr with
  | none => takeFault .badReg s
  | some r => writeReg r data s

/-- `RDREG reg` (R278): exactly one response word on the issuing port, zero when it faults. -/
def execRdreg (addr : Nat) (s : State) : Host.Outcome State Fault Refusal :=
  match Reg.ofAddr s.params addr with
  | none => takeFault .badReg (pushResponse s.curPort 0#32 s)
  | some r => if r = .pmData then pmDataRead s else .next (pushResponse s.curPort (regValue s r) s)

end Sys2Proof.Machine
end

