-- ==== Sys2Proof/Machine/FreqRom.lean ====
section
/-!
DEFINITION. `FREQ_ROM`, note number to frequency (spec/41_oscillator_voice.md R162).
-/
namespace Sys2Proof.Machine

/-- The entries of R162's table for notes 0 to 11. -/
def freqOctave : List F32 :=
  [ 0x4102D013#32, 0x410A9760#32, 0x4112D517#32, 0x411B9041#32, 0x4124D054#32, 0x412E9D37#32,
    0x4138FF49#32, 0x4143FF6A#32, 0x414FA700#32, 0x415C0000#32, 0x416914F6#32, 0x4176F110#32 ]

/-- The default table of R162, notes 0 to 127: entries an octave apart differ only in the exponent, by one (R162). -/
def freqTable (note : Nat) : F32 := freqOctave.getD (note % 12) 0#32 + BitVec.ofNat 32 (note / 12 * 0x00800000)

/-- `FREQ_ROM` under the one constraint of R162: entry 69 is 440.0 and every entry is finite and positive. A free table that
breaks it at a note is read as the default there (log 4). -/
def freqRom (p : Params) (note : Nat) : F32 :=
  match p.freq with
  | .table => freqTable note
  | .free =>
    if note = 69 then 0x43DC0000#32
    else if isFinite (Config.freqFree note) && fgt (Config.freqFree note) fZero then Config.freqFree note
    else freqTable note

end Sys2Proof.Machine
end

