-- ==== Sys2Proof/Machine/VoicePool.lean ====
section
/-!
DEFINITION. The synth voice pool and the note commands (spec/42_voice_pool.md).
-/
namespace Sys2Proof.Machine

/-- `canHandle(note)` (R176): false exactly in the pad range. -/
def canHandle (note : Nat) : Bool :=
  !(decide (Config.padBaseNote ≤ note) && decide (note ≤ Config.padBaseNote + Config.npads - 1))

/-- The voices in search order: from the cursor, cyclically (R177). -/
def searchOrder (start : Nat) : List Nat := (List.range Config.nv).map (fun j => (start + j) % Config.nv)

/-- The voice `SynthAlloc` chooses (R177): the first not active from the cursor on, else the one at the cursor (R183). -/
def synthAlloc (s : State) : Nat :=
  ((searchOrder s.synthNext.toNat).find? (fun c => !(s.voice c).active)).getD s.synthNext.toNat

/-- The voice record after `SynthStart` (R178); `PHASE` is kept. -/
def voiceStart (p : Params) (r : ParamRegs) (fs : F32) (note : Nat) (velocity : F32) (v : Voice) : Voice :=
  { v with
    note := BitVec.ofNat 7 note
    freq := freqRom p note
    velgain := velocity
    env := envNoteOn (envConfigure r fs v.env)
    active := true }

/-- `SynthStart(k, note, velocity)` (R178). -/
def synthStart (k note : Nat) (velocity : F32) (s : State) : State :=
  setVoice k (voiceStart s.params s.regs s.fs note velocity (s.voice k)) s

/-- The cursor after voice `k` was given out (R177). -/
def advanceSynthNext (k : Nat) (s : State) : State := { s with synthNext := BitVec.ofNat 3 ((k + 1) % Config.nv) }

/-- The voice a stop leaves (R180): `tail` lets Release finish, otherwise the voice is idle at once. -/
def voiceStop (fs : F32) (tail : Bool) (v : Voice) : Voice :=
  if tail then
    let e := envNoteOff fs v.env
    { v with env := e, active := envIsActive e }
  else { v with env := envReset v.env, active := false }

/-- `SynthStop(note, tail)` (R180): every active voice that holds the note. -/
def synthStop (note : Nat) (tail : Bool) (s : State) : State :=
  { s with
    voices := s.voices.map (fun v =>
      if v.active && decide (v.note.toNat = note) then voiceStop s.fs tail v else v) }

/-- `NOTE_ON note, vel, chan` (R179); `chan` is ignored (R122). -/
def execNoteOn (note _chan : Nat) (vel : F32) (s : State) : Host.Outcome State Fault Refusal :=
  onP0 s <| whenPrepared s <|
    if isNaN vel then takeFault .badOperand s
    else if canHandle note then .next (synthStart (synthAlloc s) note vel (advanceSynthNext (synthAlloc s) s))
    else .next (padTrigger (note - Config.padBaseNote) vel s)

/-- `NOTE_OFF note, vel, chan` (R181); `vel` and `chan` are ignored (R122). -/
def execNoteOff (note _chan : Nat) (_vel : F32) (s : State) : Host.Outcome State Fault Refusal :=
  onP0 s <| whenPrepared s <| if canHandle note then .next (synthStop note true s) else .next s

/-- `NOTE_CUT note, vel, chan` (R182); `vel` and `chan` are ignored (R122). -/
def execNoteCut (note _chan : Nat) (_vel : F32) (s : State) : Host.Outcome State Fault Refusal :=
  onP0 s <| whenPrepared s <| if canHandle note then .next (synthStop note false s) else .next s

end Sys2Proof.Machine
end

