-- ==== Sys2Proof/Machine/Dispatch.lean ====
section
/-!
DEFINITION. One arm per command: each command's meaning (spec/30_encoding.md R119, R120 step 3).
-/
namespace Sys2Proof.Machine

/-- The meaning of every command of the opcode table. -/
def exec (i : Instr) (s : State) : Host.Outcome State Fault Refusal :=
  match i with
  | .nop => Sys2Proof.Machine.execNop s
  | .prepare maxBlock rate => Sys2Proof.Machine.execPrepare maxBlock rate s
  | .release => Sys2Proof.Machine.execRelease s
  | .render count => Sys2Proof.Machine.execRender count s
  | .noteOn note chan vel => Sys2Proof.Machine.execNoteOn note chan vel s
  | .noteOff note chan vel => Sys2Proof.Machine.execNoteOff note chan vel s
  | .noteCut note chan vel => Sys2Proof.Machine.execNoteCut note chan vel s
  | .padTrig pad vel => Sys2Proof.Machine.execPadTrig pad vel s
  | .padLoad pad => Sys2Proof.Machine.execPadLoad pad s
  | .padClear pad => Sys2Proof.Machine.execPadClear pad s
  | .wrreg addr data => Sys2Proof.Machine.execWrreg addr data s
  | .rdreg addr => Sys2Proof.Machine.execRdreg addr s

end Sys2Proof.Machine
end

