-- ==== Sys2Proof/Machine/Fetch.lean ====
section
/-!
DEFINITION. What a step does with the command it has popped: decode it and execute it (spec/30_encoding.md R120).
-/
namespace Sys2Proof.Machine

/-- Decode and execute the command that was just popped (R120): an illegal word takes the fault `ILLEGAL_CMD`. -/
def runCommand (s : State) : Host.Outcome State Fault Refusal :=
  match decode s.curCmd with
  | .error _ => takeFault .illegalCmd s
  | .ok i => exec i s

end Sys2Proof.Machine
end

