-- ==== Sys2Proof/Machine/Step.lean ====
section
/-!
DEFINITION. One step of the engine (spec/00_scope.md R15, spec/30_encoding.md R120): serve a queue, decode its head, execute it.
-/
namespace Sys2Proof.Machine

/-- One step (R15). An engine with empty command queues is idle (R315): its state stays (log 8). -/
def step (s : State) : Host.Outcome State Fault Refusal :=
  match nextPort s with
  | none => .next s
  | some port => retireOutcome (runCommand (popCommand port s))

/-- The state with one command of the opcode table where the next step fetches: at the head of `CQ0`, `CQ1` empty, so that no free
choice stands between (log 10). -/
def State.withFetchWord (s : State) (nbits w : Nat) : State := { s with cq0 := cmdOfTableBits nbits w :: s.cq0, cq1 := [] }

end Sys2Proof.Machine
end

