-- ==== Sys2Proof/Machine/Asm.lean ====
section
/-!
DEFINITION. The assembler's lines as data and the one command each stands for (spec/30_encoding.md R124, R125; log 20).
-/
namespace Sys2Proof.Machine

/-- A float operand (R124): a decimal literal `± num / den`, which assembles to `bits(F("literal"))`, or a raw pattern. -/
inductive FloatOperand where
  | decimal (neg : Bool) (num den : Nat)
  | raw (w : Word)
deriving DecidableEq, Repr

/-- The bits of a float operand (R124, R10). -/
def FloatOperand.bits : FloatOperand → F32
  | .decimal neg num den => fMake neg (roundMag (num * 2 ^ 149) den)
  | .raw w => w

/-- The data of a register write (R124): an integer or a float operand. -/
inductive DataOperand where
  | int (n : Nat)
  | float (x : FloatOperand)
deriving DecidableEq, Repr

/-- The data word (R124). DESIGN CHOICE (log 28): of an integer that has more than 32 bits, the low 32. -/
def DataOperand.bits : DataOperand → Word
  | .int n => BitVec.ofNat 32 n
  | .float x => x.bits

/-- A register operand (R124): a name of R40 or a number. -/
inductive RegOperand where
  | named (r : Reg)
  | number (n : Nat)
deriving DecidableEq, Repr

/-- The address of a register operand (R124). Of a name whose index R40 does not have, see `Reg.addr` (DESIGN CHOICE, log 29). -/
def RegOperand.addr : RegOperand → Nat
  | .named r => r.addr
  | .number n => n

/-- `name` of the pseudo-instruction `PARAM` (R125). -/
inductive HostParam where
  | masterVolume
  | lowpassCutoff
  | atmosphere
  | synthLevel
deriving DecidableEq, Repr

/-- The register of a `PARAM` name (R125). -/
def HostParam.reg : HostParam → ParamReg
  | .masterVolume => .masterVolume
  | .lowpassCutoff => .lowpassCutoff
  | .atmosphere => .atmosphere
  | .synthLevel => .synthLevel

/-- `stage` of the pseudo-instruction `ENVSET` (R125). -/
inductive EnvTime where
  | attack
  | decay
  | sustain
  | release
deriving DecidableEq, Repr

/-- The register of an `ENVSET` stage (R125). -/
def EnvTime.reg : EnvTime → ParamReg
  | .attack => .envAttack
  | .decay => .envDecay
  | .sustain => .envSustain
  | .release => .envRelease

/-- The statements of R124 and the pseudo-instructions of R125. -/
inductive AsmCmd where
  | nop
  | prepare (rate : FloatOperand) (maxBlock : Nat)
  | release
  | render (count : Nat)
  | noteOn (note : Nat) (vel : FloatOperand) (chan : Option Nat)
  | noteOff (note : Nat) (vel : Option FloatOperand) (chan : Option Nat)
  | noteCut (note : Nat) (vel : Option FloatOperand) (chan : Option Nat)
  | padTrig (pad : Nat) (vel : FloatOperand)
  | padLoad (pad : Nat)
  | padClear (pad : Nat)
  | wrreg (reg : RegOperand) (data : DataOperand)
  | rdreg (reg : RegOperand)
  | param (name : HostParam) (value : FloatOperand)
  | envset (stage : EnvTime) (value : FloatOperand)
  | pmseek (a : Nat)
  | pmw (value : DataOperand)
  | pmr
  | rdstat
  | keyOn (note : Nat) (vel : FloatOperand)
  | keyOff (note : Nat)
deriving DecidableEq, Repr

/-- The optional velocity of a stop: `0.0` when it is left out (R124). -/
def velOrZero (v : Option FloatOperand) : F32 := (v.map FloatOperand.bits).getD fZero

/-- The command a statement stands for (R124, R125): exactly one. The integer of `PMSEEK` is data of a `WRREG` (log 28). -/
def AsmCmd.command : AsmCmd → Instr
  | .nop => .nop
  | .prepare rate maxBlock => .prepare maxBlock rate.bits
  | .release => .release
  | .render count => .render count
  | .noteOn note vel chan => .noteOn note (chan.getD 0) vel.bits
  | .noteOff note vel chan => .noteOff note (chan.getD 0) (velOrZero vel)
  | .noteCut note vel chan => .noteCut note (chan.getD 0) (velOrZero vel)
  | .padTrig pad vel => .padTrig pad vel.bits
  | .padLoad pad => .padLoad pad
  | .padClear pad => .padClear pad
  | .wrreg reg data => .wrreg reg.addr data.bits
  | .rdreg reg => .rdreg reg.addr
  | .param name value => .wrreg name.reg.addr value.bits
  | .envset stage value => .wrreg stage.reg.addr value.bits
  | .pmseek a => .wrreg Reg.pmAddr.addr (BitVec.ofNat 32 a)
  | .pmw value => .wrreg Reg.pmData.addr value.bits
  | .pmr => .rdreg Reg.pmData.addr
  | .rdstat => .rdreg Reg.status.addr
  | .keyOn note vel => .noteOn note 0 vel.bits
  | .keyOff note => .noteOff note 0 fZero

/-- A line (R124): an optional port prefix, P0 without it, and a statement. -/
structure AsmLine where
  port : Option Port
  cmd : AsmCmd
deriving DecidableEq, Repr

/-- What a line pushes: a port and a command word (R124). DESIGN CHOICE (log 28): an integer operand that does not fit its field is cut
to the field, without a check; R124 does not say what such a line assembles to. -/
def AsmLine.assemble (l : AsmLine) : Port × Cmd := (l.port.getD .p0, encode l.cmd.command)

end Sys2Proof.Machine
end

