-- ==== Sys2Proof/Safety.lean ====
section
/-!
DEFINITION. What counts as a sound state of the block: the invariants of spec/10_state.md R25, R32, R36, R41, R42, of
spec/40_envelope.md R151 and of spec/41_oscillator_voice.md R168, and the model's own shape of State, each as a predicate.
-/
namespace Sys2Proof.Machine

/-! ### Ranges of binary32 values -/

/-- `0 <= x <= 1`. -/
def inUnit (x : F32) : Bool := fle fZero x && fle x fOne

/-- `0 <= x < 1`. -/
def inUnitOpen (x : F32) : Bool := fle fZero x && flt x fOne

/-- `0 <= x`, infinity included. -/
def nonNeg (x : F32) : Bool := fle fZero x

/-- A legal value of a parameter register (R41, R42): a number of its closed range. -/
def ParamReg.legal (r : ParamReg) (x : F32) : Bool := fle r.lo x && fle x r.hi

/-! ### The invariants -/

/-- The arrays have the sizes the parameters give them, and `PAD_NEXT` is in `0 .. PV-1` (R22, R33, R34, R35, R37, R45). -/
structure ShapeInv (s : State) : Prop where
  params : s.params.Legal
  voices : s.voices.length = 8
  pads : s.pads.length = 8
  padVoices : s.padVoices.length = s.params.pv
  padNext : s.padNext.toNat < s.params.pv
  flt : s.flt.length = s.params.nch
  out : s.out.length = s.params.nch

/-- R25 (c) and (d) of one voice: `ACTIVE` equals "the envelope is not Idle", and an inactive voice's level is `+0.0`. -/
def Voice.settled (v : Voice) : Prop :=
  (v.active = false → v.env.stage = .idle ∧ v.env.level = fZero) ∧ (v.active = true → v.env.stage ≠ .idle)

/-- R25 (c) and (d) of every voice. -/
def VoicesSettled (s : State) : Prop := ∀ v ∈ s.voices, v.settled

/-- R25 (a) and (b), R151, R152, R168 of one voice: the phase in [0, 1), the level and the sustain ratio in [0, 1], the times not
negative, and every stored rate and the frequency a non-negative number or infinity, never NaN. -/
structure Voice.Ranged (v : Voice) : Prop where
  phase : inUnitOpen v.phase = true
  freq : nonNeg v.freq = true
  level : inUnit v.env.level = true
  sustain : inUnit v.env.sustain = true
  attack : nonNeg v.env.attack = true
  decay : nonNeg v.env.decay = true
  release : nonNeg v.env.release = true
  arate : nonNeg v.env.arate = true
  drate : nonNeg v.env.drate = true
  rrate : nonNeg v.env.rrate = true

/-- Every parameter register holds a legal value (R41, R42). -/
def ParamsLegal (s : State) : Prop := ∀ r : ParamReg, r.legal (r.read s.regs) = true

/-- A prepared engine has a positive finite sample rate and a block size in `1 .. HW_MAXBLOCK` (R21, R256). -/
def PreparedInv (s : State) : Prop :=
  s.prepared = true →
    isFinite s.fs = true ∧ fgt s.fs fZero = true ∧ 1 ≤ s.maxBlock.toNat ∧ s.maxBlock.toNat ≤ s.params.hwMaxBlock

/-- The ranges of R25, R41, R42, R151 and R168 together: what each needs of the others is here. -/
structure RangeInv (s : State) : Prop where
  prepared : PreparedInv s
  regs : ParamsLegal s
  voices : ∀ v ∈ s.voices, v.Ranged

/-- R36 (b), with R33 and R205, of one slot: a loaded slot's region fits pad sample memory and its frames fit the cap; an unloaded
slot is all zero. -/
def PadSlot.sound (p : Params) (d : PadSlot) : Prop :=
  (d.loaded = true →
    1 ≤ d.frames.toNat ∧ d.frames.toNat ≤ p.padCapFrames ∧ 1 ≤ d.chans.toNat ∧
      d.base.toNat + d.frames.toNat * d.chans.toNat ≤ p.padMemWords) ∧
  (d.loaded = false → d = PadSlot.empty)

/-- R36 (a), with R34, of one pad voice: an active voice plays a loaded slot at a frame it has; an idle one holds -1. -/
def PadVoice.sound (s : State) (v : PadVoice) : Prop :=
  (v.active = true → (s.pad v.src.toNat).loaded = true ∧ v.pos.toInt < (s.pad v.src.toNat).frames.toNat) ∧
  (v.active = false → v.pos = 0xFFFFFFFF#32)

/-- R36: every slot and every pad voice. -/
structure PadInv (s : State) : Prop where
  params : s.params.Legal
  slots : ∀ d ∈ s.pads, d.sound s.params
  voices : ∀ v ∈ s.padVoices, v.sound s

/-- Every address of a memory is below a bound. -/
def Memory.below (m : Memory) (n : Nat) : Bool := m.all (fun e => decide (e.1 < n))

/-- The memories are in their canonical form and list only words that exist (log 5, 15): `PM` and every row of `OUT`. -/
structure MemInv (s : State) : Prop where
  pm : Memory.wf s.pm = true
  pmBelow : Memory.below s.pm s.params.padMemWords = true
  out : ∀ row ∈ s.out, Memory.wf row = true ∧ Memory.noZero row = true ∧ Memory.below row s.params.hwMaxBlock = true

/-- The error registers (R32): only bits 1 to 7 of `ERROR`; before the first fault everything is 0; after it `ERRFIRST` holds a code
whose bit is set in `ERROR`, and a port. -/
def ErrorInv (s : State) : Prop :=
  s.err.error &&& ~~~0xFE#32 = 0#32 ∧
  (s.err.error = 0#32 → s.err = ErrorRegs.zero) ∧
  (s.err.error ≠ 0#32 → ∃ (code : FaultCode) (port : Port),
    s.err.errfirst = BitVec.ofNat 32 (code.number + 256 * port.number) ∧ s.err.error.getLsbD code.number = true)

/-- No command is being executed (log 9): what holds between commands. -/
def Quiet (s : State) : Prop := s.curPort = .p0 ∧ s.curCmd = 0#64

end Sys2Proof.Machine
end

