-- ==== Sys2Proof/Certificates/Slice0/Obligations.lean ====
section
/-!
DEFINITION. The statements for the provers. Each docstring names the rules of spec/ it formalises.
-/

open Sys2Proof Sys2Proof.Machine

/-! ### Encoding (spec/30_encoding.md) -/

/-- Decoding the word of a well-formed command gives that command back, every operand at every value (R118, R119). -/
def Obligations.DecodeOfEncodeIsTheCommand : Prop :=
  ∀ i : Instr, i.wellFormed = true → decode (encode i) = .ok i

/-- A word that decodes is the one word of the command it decodes to, and the command is well formed: no word has two readings and no
bit of a legal word is dropped (R111, R118, R121). -/
def Obligations.DecodedWordIsItsOwnEncoding : Prop :=
  ∀ (w : Cmd) (i : Instr), decode w = .ok i → i.wellFormed = true ∧ encode i = w

/-- The worked encodings of R127, both ways. -/
def Obligations.WorkedEncodingsHold : Prop :=
  ∀ x ∈ [ (Instr.noteOn 69 0 0x3F800000#32, 0x104500003F800000#64), (.noteOff 69 0 0#32, 0x1145000000000000#64),
      (.noteCut 69 0 0#32, 0x1245000000000000#64), (.prepare 512 0x472C4400#32, 0x01000200472C4400#64),
      (.render 512, 0x0800000000000200#64), (.padTrig 3 0x3F59999A#32, 0x200300003F59999A#64),
      (.padLoad 3, 0x2103000000000000#64), (.padClear 3, 0x2203000000000000#64),
      (.wrreg (Reg.param .atmosphere).addr 0x3F800000#32, 0x300012003F800000#64), (.rdreg Reg.status.addr, 0x3100010000000000#64),
      (.rdreg (Reg.out 1 5).addr, 0x3190050000000000#64), (.noteOn 60 9 0x3F000000#32, 0x103C09003F000000#64) ],
    decode x.2 = .ok x.1 ∧ encode x.1 = x.2

/-- The rows of the opcode table are disjoint, a word decodes exactly when a row matches it, and an illegal word is illegal in exactly
one of the two ways of R121: an opcode that is none of the twelve, or one of the twelve with a must-be-zero bit set. -/
def Obligations.IllegalWordsAreTheUnmatchedOnes : Prop :=
  (∀ r₁ ∈ opcodeTable, ∀ r₂ ∈ opcodeTable, ∀ w : Cmd,
    w &&& r₁.mask = r₁.pattern → w &&& r₂.mask = r₂.pattern → r₁ = r₂) ∧
  (∀ w : Cmd, (∃ i, decode w = .ok i) ↔ ∃ r ∈ opcodeTable, w &&& r.mask = r.pattern) ∧
  (∀ w : Cmd, decode w = .error .unknownOpcode ↔
    (w.extractLsb' 56 8).toNat ∉ [0x00, 0x01, 0x02, 0x08, 0x10, 0x11, 0x12, 0x20, 0x21, 0x22, 0x30, 0x31]) ∧
  (∀ w : Cmd, decode w = .error .mustBeZero ↔
    (w.extractLsb' 56 8).toNat ∈ [0x00, 0x01, 0x02, 0x08, 0x10, 0x11, 0x12, 0x20, 0x21, 0x22, 0x30, 0x31] ∧
      ∀ r ∈ opcodeTable, w &&& r.mask ≠ r.pattern)

/-- The pseudo-instructions of R125 each stand for the one command the rule gives. -/
def Obligations.PseudoInstructionsExpand : Prop :=
  (∀ v : FloatOperand,
    (AsmCmd.param .masterVolume v).command = .wrreg 0x0010 v.bits ∧
    (AsmCmd.param .lowpassCutoff v).command = .wrreg 0x0011 v.bits ∧
    (AsmCmd.param .atmosphere v).command = .wrreg 0x0012 v.bits ∧
    (AsmCmd.param .synthLevel v).command = .wrreg 0x0013 v.bits ∧
    (AsmCmd.envset .attack v).command = .wrreg 0x0018 v.bits ∧
    (AsmCmd.envset .decay v).command = .wrreg 0x0019 v.bits ∧
    (AsmCmd.envset .sustain v).command = .wrreg 0x001A v.bits ∧
    (AsmCmd.envset .release v).command = .wrreg 0x001B v.bits) ∧
  (∀ a : Nat, (AsmCmd.pmseek a).command = (AsmCmd.wrreg (.named .pmAddr) (.int a)).command) ∧
  (∀ d : DataOperand, (AsmCmd.pmw d).command = (AsmCmd.wrreg (.named .pmData) d).command) ∧
  AsmCmd.pmr.command = (AsmCmd.rdreg (.named .pmData)).command ∧
  AsmCmd.rdstat.command = (AsmCmd.rdreg (.named .status)).command ∧
  (∀ (n : Nat) (v : FloatOperand), (AsmCmd.keyOn n v).command = (AsmCmd.noteOn n v (some 0)).command) ∧
  (∀ n : Nat, (AsmCmd.keyOff n).command = (AsmCmd.noteOff n (some (.decimal false 0 1)) (some 0)).command)

/-! ### The step (spec/00_scope.md R15, spec/30_encoding.md R120) -/

/-- A step runs the decoded command: the head of a queue, when it decodes to `i`, is popped, `exec i` runs with the port and the word of
the command at hand, and the command is then over. With both queues filled which one is served is the free choice number `arbCount`
(log 7), and the choice is counted. With both queues empty the engine is idle (R315, log 8). -/
def Obligations.StepRunsTheDecodedCommand : Prop :=
  (∀ (s : State) (w : Cmd) (rest : List Cmd) (i : Instr), s.cq0 = w :: rest → s.cq1 = [] → decode w = .ok i →
    step s = retireOutcome (exec i { s with cq0 := rest, curPort := .p0, curCmd := w })) ∧
  (∀ (s : State) (w : Cmd) (rest : List Cmd) (i : Instr), s.cq0 = [] → s.cq1 = w :: rest → decode w = .ok i →
    step s = retireOutcome (exec i { s with cq1 := rest, curPort := .p1, curCmd := w })) ∧
  (∀ (s : State) (w₀ w₁ : Cmd) (rest₀ rest₁ : List Cmd) (i₀ i₁ : Instr), s.cq0 = w₀ :: rest₀ → s.cq1 = w₁ :: rest₁ →
    decode w₀ = .ok i₀ → decode w₁ = .ok i₁ →
    step s =
      if Config.arbiter s.arbCount = true then
        retireOutcome (exec i₁ { s with cq1 := rest₁, arbCount := s.arbCount + 1, curPort := .p1, curCmd := w₁ })
      else retireOutcome (exec i₀ { s with cq0 := rest₀, arbCount := s.arbCount + 1, curPort := .p0, curCmd := w₀ })) ∧
  (∀ s : State, s.cq0 = [] → s.cq1 = [] → step s = .next s)

/-- A step that answers a next state leaves an idle engine as it is, or takes exactly the head of one non-empty queue and leaves the
other queue and every later command alone: per-port order, no command altered or dropped (R15, R91 a, R96). -/
def Obligations.StepTakesOneCommandInOrder : Prop :=
  ∀ s t : State, step s = .next t →
    (s.cq0 = [] ∧ s.cq1 = [] ∧ t = s) ∨
    (∃ w rest, s.cq0 = w :: rest ∧ t.cq0 = rest ∧ t.cq1 = s.cq1) ∨
    (∃ w rest, s.cq1 = w :: rest ∧ t.cq1 = rest ∧ t.cq0 = s.cq0)

/-- An illegal word takes the fault `ILLEGAL_CMD` on either port alike, before the port check, and changes nothing but the error
registers; the step that runs it only pops it; the five examples of the rule are illegal (R300; R120, R121). -/
def Obligations.IllegalWordOnlyRecordsTheFault : Prop :=
  (∀ (s : State) (e : DecodeError), decode s.curCmd = .error e →
    runCommand s = .next { s with err := errorEntry .illegalCmd s.curPort s.curCmd s.err }) ∧
  (∀ (s : State) (w : Cmd) (rest : List Cmd) (e : DecodeError), s.cq0 = w :: rest → s.cq1 = [] → decode w = .error e →
    step s = .next { s with cq0 := rest, curPort := .p0, curCmd := 0#64, err := errorEntry .illegalCmd .p0 w s.err }) ∧
  (∀ (s : State) (w : Cmd) (rest : List Cmd) (e : DecodeError), s.cq0 = [] → s.cq1 = w :: rest → decode w = .error e →
    step s = .next { s with cq1 := rest, curPort := .p0, curCmd := 0#64, err := errorEntry .illegalCmd .p1 w s.err }) ∧
  decode 0xFF00000000000000#64 = .error .unknownOpcode ∧
  ∀ w ∈ [0x0000000000000001#64, 0x10C500003F800000#64, 0x3100010000000001#64, 0x0800000100000010#64], decode w = .error .mustBeZero

/-! ### Faults (spec/60_exceptions.md) -/

/-- The fault entry of R296: the first fault since reset records its code, port and command word, every fault sets its bit of `ERROR`,
`STATUS.FAULT` then reads 1, and nothing else changes; an `RDREG` that faults first pushes the zero word. -/
def Obligations.FaultEntryRecordsTheFault : Prop :=
  (∀ (code : FaultCode) (s : State),
    raiseFault code s = { s with err := (raiseFault code s).err } ∧
    (raiseFault code s).err.error = s.err.error ||| (1#32 <<< code.number) ∧
    (s.err.error = 0#32 →
      (raiseFault code s).err.errfirst = BitVec.ofNat 32 code.number ||| (BitVec.ofNat 32 s.curPort.number <<< 8) ∧
      (raiseFault code s).err.infoLo = s.curCmd.extractLsb' 0 32 ∧
      (raiseFault code s).err.infoHi = s.curCmd.extractLsb' 32 32) ∧
    (s.err.error ≠ 0#32 →
      (raiseFault code s).err.errfirst = s.err.errfirst ∧ (raiseFault code s).err.infoLo = s.err.infoLo ∧
      (raiseFault code s).err.infoHi = s.err.infoHi) ∧
    (statusWord (raiseFault code s)).getLsbD 3 = true) ∧
  (∀ (s : State) (a : Nat), Reg.ofAddr s.params a = none →
    exec (.rdreg a) s = .next (raiseFault .badReg (pushResponse s.curPort 0x00000000#32 s))) ∧
  (∀ s : State, s.params.padMemWords ≤ s.staging.pmAddr.toNat →
    exec (.rdreg 0x0021) s = .next (raiseFault .pmRange (pushResponse s.curPort 0x00000000#32 s)))

/-- The six commands that only P0 may issue fault with `PORT_VIOLATION` on P1, whatever the engine state and the operands, and no other
command and no command from P0 raises that fault (R301; R126, R293). -/
def Obligations.RealTimeCommandsFaultOnP1 : Prop :=
  (∀ s : State, s.curPort = .p1 →
    (∀ n r, exec (.prepare n r) s = .next (raiseFault .portViolation s)) ∧
    exec .release s = .next (raiseFault .portViolation s) ∧
    (∀ n, exec (.render n) s = .next (raiseFault .portViolation s)) ∧
    (∀ n c v, exec (.noteOn n c v) s = .next (raiseFault .portViolation s)) ∧
    (∀ n c v, exec (.noteOff n c v) s = .next (raiseFault .portViolation s)) ∧
    (∀ n c v, exec (.noteCut n c v) s = .next (raiseFault .portViolation s))) ∧
  (∀ (i : Instr) (s t : State), exec i s = .next t → s.err.error.getLsbD 2 = false → t.err.error.getLsbD 2 = true →
    s.curPort = .p1 ∧
      ((∃ n r, i = .prepare n r) ∨ i = .release ∨ (∃ n, i = .render n) ∨ (∃ n c v, i = .noteOn n c v) ∨
        (∃ n c v, i = .noteOff n c v) ∨ (∃ n c v, i = .noteCut n c v)))

/-- `RENDER` and the note commands fault with `NOT_PREPARED` on an unprepared engine, whatever their operands and also for a note of the
pad range; `PAD_TRIG` does not look at `PREPARED` (R302, R293). -/
def Obligations.UnpreparedEngineFaults : Prop :=
  ∀ s : State, s.prepared = false →
    (s.curPort = .p0 →
      (∀ n, exec (.render n) s = .next (raiseFault .notPrepared s)) ∧
      (∀ n c v, exec (.noteOn n c v) s = .next (raiseFault .notPrepared s)) ∧
      (∀ n c v, exec (.noteOff n c v) s = .next (raiseFault .notPrepared s)) ∧
      (∀ n c v, exec (.noteCut n c v) s = .next (raiseFault .notPrepared s))) ∧
    (∀ p v, isNaN v = false → exec (.padTrig p v) s = .next (padTrigger p v s))

/-- `BAD_OPERAND` in its four places (R303): `PREPARE` with a rate that is not positive and finite or a block size of 0 or above
`HW_MAXBLOCK`; `NOTE_ON` and `PAD_TRIG` with a NaN velocity (before the pad index is looked at, R198); a parameter write of a NaN. -/
def Obligations.UnusableOperandsFault : Prop :=
  (∀ (s : State) (n : Nat) (r : F32), s.curPort = .p0 →
    (¬(isFinite r = true ∧ fgt r fZero = true) ∨ n = 0 ∨ s.params.hwMaxBlock < n) →
    exec (.prepare n r) s = .next (raiseFault .badOperand s)) ∧
  (∀ (s : State) (n c : Nat) (v : F32), s.curPort = .p0 → s.prepared = true → isNaN v = true →
    exec (.noteOn n c v) s = .next (raiseFault .badOperand s)) ∧
  (∀ (s : State) (p : Nat) (v : F32), isNaN v = true → exec (.padTrig p v) s = .next (raiseFault .badOperand s)) ∧
  (∀ (s : State) (r : ParamReg) (v : F32), isNaN v = true → exec (.wrreg r.addr v) s = .next (raiseFault .badOperand s))

/-- `RENDER` of more than `MAXBLOCK` frames is refused, not truncated; with a legal `HW_MAXBLOCK` and what R21 says of a prepared
engine, every count of 4097 or more is (R304). -/
def Obligations.OversizedBlockFaults : Prop :=
  ∀ (s : State) (n : Nat), s.curPort = .p0 → s.prepared = true →
    (s.maxBlock.toNat < n → exec (.render n) s = .next (raiseFault .blockTooLarge s)) ∧
    (s.params.Legal → PreparedInv s → 4097 ≤ n → exec (.render n) s = .next (raiseFault .blockTooLarge s))

/-- `BAD_REG` (R305): a write to an unmapped or read-only address, and a read of an unmapped one, which first pushes a zero word. The
address is checked before the data (R293). -/
def Obligations.UnmappedAndReadOnlyFault : Prop :=
  (∀ (s : State) (a : Nat) (v : Word), Reg.ofAddr s.params a = none → exec (.wrreg a v) s = .next (raiseFault .badReg s)) ∧
  (∀ (s : State) (a : Nat) (r : Reg) (v : Word), Reg.ofAddr s.params a = some r → r.writable = false →
    exec (.wrreg a v) s = .next (raiseFault .badReg s)) ∧
  (∀ (s : State) (a : Nat), Reg.ofAddr s.params a = none →
    exec (.rdreg a) s = .next (raiseFault .badReg (pushResponse s.curPort 0#32 s)))

/-- `PM_RANGE` (R306, R279): `PM_ADDR` may be given any word; a `PM_DATA` access with `PM_ADDR` at or above `PADMEM_WORDS` faults; a read
first pushes a zero word; `PM_ADDR` does not move. -/
def Obligations.PadMemoryRangeFaults : Prop :=
  (∀ (s : State) (w : Word), exec (.wrreg 0x0020 w) s = .next { s with staging := { s.staging with pmAddr := w } }) ∧
  ∀ s : State, s.params.padMemWords ≤ s.staging.pmAddr.toNat →
    (∀ v, exec (.wrreg 0x0021 v) s = .next (raiseFault .pmRange s)) ∧
    exec (.rdreg 0x0021) s = .next (raiseFault .pmRange (pushResponse s.curPort 0#32 s)) ∧
    (raiseFault .pmRange (pushResponse s.curPort 0#32 s)).staging = s.staging

/-- No step clears an `ERROR` bit, once a fault is recorded no step changes `ERRFIRST` or `ERRINFO` (R32, R297), and every step keeps
the error registers as R32 describes them. -/
def Obligations.ErrorRecordIsStickyAndSound : Prop :=
  ∀ s t : State, step s = .next t →
    s.err.error &&& t.err.error = s.err.error ∧
    (s.err.error ≠ 0#32 → t.err.errfirst = s.err.errfirst ∧ t.err.infoLo = s.err.infoLo ∧ t.err.infoHi = s.err.infoHi) ∧
    (ErrorInv s → ErrorInv t)

/-! ### What each command does -/

/-- `NOP` is the all-zero word, is popped and changes nothing on either port, and every other word with its opcode is illegal (R275). -/
def Obligations.NopChangesNothing : Prop :=
  decode 0#64 = .ok .nop ∧ (∀ s : State, exec .nop s = .next s) ∧
  (∀ (s : State) (rest : List Cmd), s.cq0 = 0#64 :: rest → s.cq1 = [] →
    step s = .next { s with cq0 := rest, curPort := .p0, curCmd := 0#64 }) ∧
  (∀ (s : State) (rest : List Cmd), s.cq0 = [] → s.cq1 = 0#64 :: rest →
    step s = .next { s with cq1 := rest, curPort := .p0, curCmd := 0#64 }) ∧
  ∀ w : Cmd, (w.extractLsb' 56 8).toNat = 0 → w ≠ 0#64 → decode w = .error .mustBeZero

/-- `PREPARE` with legal operands records them, sets `PREPARED`, puts all running state back to its reset value and leaves the rest
alone (R256, R257). -/
def Obligations.PrepareConfiguresAndClears : Prop :=
  ∀ (s : State) (n : Nat) (r : F32), s.curPort = .p0 → isFinite r = true → fgt r fZero = true → 1 ≤ n → n ≤ s.params.hwMaxBlock →
    exec (.prepare n r) s = .next
      { s with
        fs := r, maxBlock := BitVec.ofNat 13 n, prepared := true
        voices := List.replicate 8 ⟨0#32, 0#32, 0#32, 0#7, false, ⟨.idle, 0#32, 0#32, 0#32, 0#32, 0#32, 0#32, 0#32, 0#32⟩⟩
        synthNext := 0#3
        padVoices := List.replicate s.params.pv ⟨0#3, 0xFFFFFFFF#32, 0#32⟩
        padNext := 0#5
        flt := List.replicate s.params.nch ⟨0#32, 0#32, 0#32, 0#32⟩
        rvs := rvsInitOf s.params } ∧
    (s.params.Legal → (BitVec.ofNat 13 n).toNat = n)

/-- `RELEASE` on P0 clears `PREPARED` and all running state; `FS` and `MAXBLOCK` stay (R258, R257). -/
def Obligations.ReleaseClears : Prop :=
  ∀ s : State, s.curPort = .p0 →
    exec .release s = .next
      { s with
        prepared := false
        voices := List.replicate 8 ⟨0#32, 0#32, 0#32, 0#7, false, ⟨.idle, 0#32, 0#32, 0#32, 0#32, 0#32, 0#32, 0#32, 0#32⟩⟩
        synthNext := 0#3
        padVoices := List.replicate s.params.pv ⟨0#3, 0xFFFFFFFF#32, 0#32⟩
        padNext := 0#5
        flt := List.replicate s.params.nch ⟨0#32, 0#32, 0#32, 0#32⟩
        rvs := rvsInitOf s.params }

/-- `NOTE_ON` outside the pad range takes the first voice not active from the cursor on, cyclically, or the voice at the cursor when all
eight are active; starts it with the note, its frequency, the velocity and a configured envelope, its phase kept; puts the cursor one past
it; and changes nothing else (R177, R178, R179, R183). The frequency of note 69 is 440.0, and that of every note is finite and positive;
the default table has the twelve lowest entries of R162, and an octave doubles the frequency (R162). -/
def Obligations.NoteOnTakesTheFirstFreeVoice : Prop :=
  (∀ (s : State) (note chan : Nat) (vel : F32), s.curPort = .p0 → s.prepared = true → isNaN vel = false →
    (note < 36 ∨ 43 < note) → s.voices.length = 8 →
    ∃ j k : Nat, j < 8 ∧ k = (s.synthNext.toNat + j) % 8 ∧
      (∀ i < j, (s.voice ((s.synthNext.toNat + i) % 8)).active = true) ∧
      ((s.voice k).active = false ∨ (j = 0 ∧ ∀ i < 8, (s.voice i).active = true)) ∧
      exec (.noteOn note chan vel) s = .next
        { s with
          voices := s.voices.set k
            { phase := (s.voice k).phase, freq := freqRom s.params note, velgain := vel, note := BitVec.ofNat 7 note, active := true,
              env := envNoteOn (envConfigure s.regs s.fs (s.voice k).env) }
          synthNext := BitVec.ofNat 3 ((k + 1) % 8) }) ∧
  (∀ p : Params, freqRom p 69 = 0x43DC0000#32) ∧
  (∀ (p : Params) (note : Nat), note < 128 → isFinite (freqRom p note) = true ∧ fgt (freqRom p note) fZero = true) ∧
  ∀ p : Params, p.freq = .table →
    (List.range 12).map (freqRom p) =
      [0x4102D013#32, 0x410A9760#32, 0x4112D517#32, 0x411B9041#32, 0x4124D054#32, 0x412E9D37#32,
       0x4138FF49#32, 0x4143FF6A#32, 0x414FA700#32, 0x415C0000#32, 0x416914F6#32, 0x4176F110#32] ∧
    ∀ note : Nat, note + 12 < 128 → fScaled (freqRom p (note + 12)) = 2 * fScaled (freqRom p note)

/-- What a started envelope holds (R141, R142, R152): the four registers, the two rates with the NaN guard, and stage and level by the
three cases of R142; `RRATE` is kept, and the level too when the attack time is positive. -/
def Obligations.StartedEnvelopeHoldsTheRegisters : Prop :=
  ∀ (r : ParamRegs) (fs : F32) (e : Env),
    let u := envNoteOn (envConfigure r fs e)
    u.attack = r.envAttack ∧ u.decay = r.envDecay ∧ u.sustain = r.envSustain ∧ u.release = r.envRelease ∧ u.rrate = e.rrate ∧
    (fgt r.envAttack fZero = true →
      u.stage = .attack ∧ u.level = e.level ∧
      u.arate = (if isNaN (fdiv fOne (fmul r.envAttack fs)) then fZero else fdiv fOne (fmul r.envAttack fs))) ∧
    (fgt r.envAttack fZero = false → u.arate = fZero) ∧
    (fgt r.envDecay fZero = true →
      u.drate = (if isNaN (fdiv (fsub fOne r.envSustain) (fmul r.envDecay fs)) then fZero
        else fdiv (fsub fOne r.envSustain) (fmul r.envDecay fs))) ∧
    (fgt r.envDecay fZero = false → u.drate = fZero) ∧
    (fgt r.envAttack fZero = false → fgt r.envDecay fZero = true → u.stage = .decay ∧ u.level = fOne) ∧
    (fgt r.envAttack fZero = false → fgt r.envDecay fZero = false → u.stage = .sustain ∧ u.level = r.envSustain)

/-- `NOTE_ON` in the pad range triggers pad `note - 36` when it is loaded, and otherwise does nothing (R179, R197, R199). -/
def Obligations.NoteOnInPadRangeTriggersThePad : Prop :=
  ∀ (s : State) (note chan : Nat) (vel : F32), s.curPort = .p0 → s.prepared = true → isNaN vel = false → 36 ≤ note → note ≤ 43 →
    exec (.noteOn note chan vel) s = .next
      (if (s.pad (note - 36)).loaded then
        { s with
          padVoices := s.padVoices.set s.padNext.toNat ⟨BitVec.ofNat 3 (note - 36), 0#32, fclamp vel 0x00000000#32 0x3F800000#32⟩
          padNext := BitVec.ofNat 5 ((s.padNext.toNat + 1) % s.params.pv) }
      else s)

/-- `NOTE_OFF` puts every active voice that holds the note into Release with the rate from the level it holds; a zero release time ends it
at once; a voice already Idle is freed; a note in the pad range does nothing (R143, R180, R181). -/
def Obligations.NoteOffReleasesEveryMatchingVoice : Prop :=
  (∀ (s : State) (note chan : Nat) (vel : F32), s.curPort = .p0 → s.prepared = true → (note < 36 ∨ 43 < note) →
    exec (.noteOff note chan vel) s = .next
      { s with voices := s.voices.map (fun v =>
          if v.active = true ∧ v.note.toNat = note then
            (if v.env.stage = .idle then { v with active := false }
             else if fgt v.env.release fZero = true then
              { v with env := { v.env with stage := .release, rrate :=
                  (if isNaN (fdiv v.env.level (fmul v.env.release s.fs)) then fZero else fdiv v.env.level (fmul v.env.release s.fs)) } }
             else { v with active := false, env := { v.env with stage := .idle, level := fZero } })
          else v) }) ∧
  (∀ (s : State) (note chan : Nat) (vel : F32), s.curPort = .p0 → s.prepared = true → 36 ≤ note → note ≤ 43 →
    exec (.noteOff note chan vel) s = .next s)

/-- `NOTE_CUT` makes every active voice that holds the note idle and silent at once and changes nothing else (R144, R180, R182). -/
def Obligations.NoteCutSilencesEveryMatchingVoice : Prop :=
  (∀ (s : State) (note chan : Nat) (vel : F32), s.curPort = .p0 → s.prepared = true → (note < 36 ∨ 43 < note) →
    exec (.noteCut note chan vel) s = .next
      { s with voices := s.voices.map (fun v =>
          if v.active = true ∧ v.note.toNat = note then
            { v with active := false, env := { v.env with stage := .idle, level := fZero } }
          else v) }) ∧
  (∀ (s : State) (note chan : Nat) (vel : F32), s.curPort = .p0 → s.prepared = true → 36 ≤ note → note ≤ 43 →
    exec (.noteCut note chan vel) s = .next s)

/-- `PAD_TRIG` on either port: a loaded pad takes the voice at the cursor, whatever it does, and the cursor advances; a bad index or an
unloaded pad does nothing (R197, R198, R209). -/
def Obligations.PadTrigTakesTheCursorVoice : Prop :=
  ∀ (s : State) (pad : Nat) (vel : F32), isNaN vel = false →
    exec (.padTrig pad vel) s = .next
      (if pad < 8 ∧ (s.pad pad).loaded = true then
        { s with
          padVoices := s.padVoices.set s.padNext.toNat ⟨BitVec.ofNat 3 pad, 0#32, fclamp vel 0x00000000#32 0x3F800000#32⟩
          padNext := BitVec.ofNat 5 ((s.padNext.toNat + 1) % s.params.pv) }
      else s)

/-- `PAD_LOAD` on either port: with an index below 8 and a staged region that is not empty and fits, every voice on the slot stops, the
whole descriptor changes with the frames cut to the cap, and the port's load flag is 1; otherwise only the flag changes, to 0
(R200, R203, R204, R209). -/
def Obligations.PadLoadCommitsOrOnlyClearsTheFlag : Prop :=
  ∀ (s : State) (pad : Nat),
    let frames := min s.staging.frames.toNat s.params.padCapFrames
    let ok := pad < 8 ∧ 1 ≤ frames ∧ 1 ≤ s.staging.chans.toNat ∧
      s.staging.base.toNat + frames * s.staging.chans.toNat ≤ s.params.padMemWords
    (ok →
      exec (.padLoad pad) s = .next
        { s with
          padVoices := s.padVoices.map (fun v =>
            if 0 ≤ v.pos.toInt ∧ v.src.toNat = pad then { v with pos := 0xFFFFFFFF#32 } else v)
          pads := s.pads.set pad ⟨true, s.staging.base, BitVec.ofNat 32 frames, s.staging.chans, s.staging.fileid⟩
          loadOk0 := if s.curPort = .p0 then true else s.loadOk0
          loadOk1 := if s.curPort = .p1 then true else s.loadOk1 }) ∧
    (¬ok →
      exec (.padLoad pad) s = .next
        { s with
          loadOk0 := if s.curPort = .p0 then false else s.loadOk0
          loadOk1 := if s.curPort = .p1 then false else s.loadOk1 })

/-- `PAD_CLEAR` on either port: a slot below 8 becomes all zero and every voice on it stops; a bad index does nothing (R200, R205). -/
def Obligations.PadClearEmptiesTheSlot : Prop :=
  ∀ (s : State) (pad : Nat),
    (pad < 8 →
      exec (.padClear pad) s = .next
        { s with
          padVoices := s.padVoices.map (fun v =>
            if 0 ≤ v.pos.toInt ∧ v.src.toNat = pad then { v with pos := 0xFFFFFFFF#32 } else v)
          pads := s.pads.set pad ⟨false, 0#32, 0#32, 0#32, 0#32⟩ }) ∧
    (8 ≤ pad → exec (.padClear pad) s = .next s)

/-- `WRREG` of a parameter register on either port: a NaN faults and the register keeps its value; a number is stored saturated to the
register's legal range, and the stored value is legal (R277; R41, R42, R276). -/
def Obligations.ParameterWriteSaturates : Prop :=
  ∀ (s : State) (r : ParamReg) (x : F32),
    (isNaN x = true → exec (.wrreg r.addr x) s = .next (raiseFault .badOperand s)) ∧
    (isNaN x = false →
      exec (.wrreg r.addr x) s = .next
        { s with regs := r.write (if fle x r.lo then r.lo else if fle r.hi x then r.hi else x) s.regs } ∧
      r.legal (if fle x r.lo then r.lo else if fle r.hi x then r.hi else x) = true)

/-- `WRREG` of `PM_ADDR` and of the four staging registers stores the word as it is (R43, R276). -/
def Obligations.StagingWriteStoresTheWord : Prop :=
  ∀ (s : State) (w : Word),
    exec (.wrreg 0x0020 w) s = .next { s with staging := { s.staging with pmAddr := w } } ∧
    exec (.wrreg 0x0024 w) s = .next { s with staging := { s.staging with base := w } } ∧
    exec (.wrreg 0x0025 w) s = .next { s with staging := { s.staging with frames := w } } ∧
    exec (.wrreg 0x0026 w) s = .next { s with staging := { s.staging with chans := w } } ∧
    exec (.wrreg 0x0027 w) s = .next { s with staging := { s.staging with fileid := w } }

/-- `WRREG PM_DATA` with `PM_ADDR` in range stores the word at `PM_ADDR`, leaves every other word of pad sample memory as it read before,
advances `PM_ADDR` by one and changes nothing else (R82, R279). -/
def Obligations.PadMemoryWriteStoresOneWord : Prop :=
  ∀ (s : State) (w : Word), s.staging.pmAddr.toNat < s.params.padMemWords →
    ∃ t : State, exec (.wrreg 0x0021 w) s = .next t ∧
      pmRead t s.staging.pmAddr.toNat = w ∧
      (∀ a : Nat, a ≠ s.staging.pmAddr.toNat → pmRead t a = pmRead s a) ∧
      t = { s with pm := t.pm, staging := { s.staging with pmAddr := s.staging.pmAddr + 1#32 } }

/-- `RDREG` of every mapped address, on either port, completes and pushes exactly one word on the response queue of its port: the word
that R31 to R45 give from the fields of the state, narrow fields zero-extended; nothing else changes (R278, R87). The registers at fixed
addresses, then the indexed windows by entry and word, for legal open parameters. `PM_DATA` with `PM_ADDR` in range pushes the word there
and advances `PM_ADDR` (R279). That `OUT` is mapped up to `HW_MAXBLOCK` is the model's choice (log 27). -/
def Obligations.RegisterReadPushesTheValue : Prop :=
  ∀ s : State,
    let pushed (w : Word) : State :=
      { s with
        rq0 := if s.curPort = .p0 then s.rq0 ++ [w] else s.rq0
        rq1 := if s.curPort = .p1 then s.rq1 ++ [w] else s.rq1 }
    let reads (addr : Nat) (w : Word) : Prop := exec (.rdreg addr) s = .next (pushed w)
    let bit (b : Bool) : Word := if b then 1#32 else 0#32
    (∃ w, reads 0x0001 w ∧ w.getLsbD 0 = s.prepared ∧ w.getLsbD 1 = s.loadOk0 ∧ w.getLsbD 2 = s.loadOk1 ∧
      w.getLsbD 3 = decide (s.err.error ≠ 0#32) ∧ ∀ b, 4 ≤ b → w.getLsbD b = false) ∧
    (∃ w, reads 0x0006 w ∧ (s.voices.length = 8 → ∀ k, w.getLsbD k = (decide (k < 8) && (s.voice k).active))) ∧
    (∃ w, reads 0x0007 w ∧ (s.params.Legal → s.padVoices.length = s.params.pv →
      ∀ m, w.getLsbD m = (decide (m < s.params.pv) && decide (0 ≤ (s.padVoice m).pos.toInt)))) ∧
    (∀ x ∈ [(0x0000, 0x48390007#32), (0x0002, s.err.error), (0x0003, s.err.errfirst), (0x0004, s.err.infoLo), (0x0005, s.err.infoHi),
        (0x0008, s.synthNext.setWidth 32), (0x0009, s.padNext.setWidth 32), (0x000A, s.fs), (0x000B, s.maxBlock.setWidth 32),
        (0x000C, s.outCount.setWidth 32),
        (0x0010, s.regs.masterVolume), (0x0011, s.regs.lowpassCutoff), (0x0012, s.regs.atmosphere), (0x0013, s.regs.synthLevel),
        (0x0018, s.regs.envAttack), (0x0019, s.regs.envDecay), (0x001A, s.regs.envSustain), (0x001B, s.regs.envRelease),
        (0x0020, s.staging.pmAddr), (0x0024, s.staging.base), (0x0025, s.staging.frames), (0x0026, s.staging.chans),
        (0x0027, s.staging.fileid)], reads x.1 x.2) ∧
    (∀ x ∈ [(0x0030, s.chain.cutoffEff), (0x0031, s.chain.coefs.b0), (0x0032, s.chain.coefs.b1), (0x0033, s.chain.coefs.b2),
        (0x0034, s.chain.coefs.a1), (0x0035, s.chain.coefs.a2), (0x0036, s.chain.width), (0x0037, s.chain.mid), (0x0038, s.chain.side),
        (0x0039, s.chain.gainLin), (0x003A, s.chain.reverb.room), (0x003B, s.chain.reverb.wet), (0x003C, s.chain.reverb.dry),
        (0x003D, s.chain.reverb.damp), (0x003E, s.chain.reverb.width), (0x003F, s.chain.reverb.freeze)], reads x.1 x.2) ∧
    (s.params.Legal → ∀ c < s.params.nch,
      ∀ x ∈ [(0, (s.filter c).x1), (1, (s.filter c).x2), (2, (s.filter c).y1), (3, (s.filter c).y2)],
        reads (0x0040 + 4 * c + x.1) x.2) ∧
    (∀ p < 8,
      ∀ x ∈ [(0, bit (s.pad p).loaded), (1, (s.pad p).base), (2, (s.pad p).frames), (3, (s.pad p).chans), (4, (s.pad p).fileid)],
        reads (0x0100 + 8 * p + x.1) x.2) ∧
    (∀ k < 8,
      ∀ x ∈ [(0, (s.voice k).phase), (1, (s.voice k).freq), (2, (s.voice k).velgain), (3, (s.voice k).note.setWidth 32),
          (4, bit (s.voice k).active),
          (5, match (s.voice k).env.stage with
            | .idle => 0#32
            | .attack => 1#32
            | .decay => 2#32
            | .sustain => 3#32
            | .release => 4#32),
          (6, (s.voice k).env.level), (7, (s.voice k).env.attack), (8, (s.voice k).env.decay), (9, (s.voice k).env.sustain),
          (10, (s.voice k).env.release), (11, (s.voice k).env.arate), (12, (s.voice k).env.drate), (13, (s.voice k).env.rrate)],
        reads (0x0200 + 16 * k + x.1) x.2) ∧
    (s.params.Legal → ∀ m < s.params.pv,
      ∀ x ∈ [(0, (s.padVoice m).src.setWidth 32), (1, (s.padVoice m).pos), (2, (s.padVoice m).gain)],
        reads (0x0300 + 4 * m + x.1) x.2) ∧
    (s.params.Legal → ∀ c < s.params.nch, ∀ i < s.params.hwMaxBlock, reads (0x8000 + 0x1000 * c + i) (s.outWord c i)) ∧
    (s.staging.pmAddr.toNat < s.params.padMemWords →
      exec (.rdreg 0x0021) s = .next
        { pushed (pmRead s s.staging.pmAddr.toNat) with staging := { s.staging with pmAddr := s.staging.pmAddr + 1#32 } })

/-! ### The register map (spec/10_state.md R40) -/

/-- The register map is that of R40: each mapped address is one register whose address it is, so two addresses never name the same
register (R81), and the addresses mapped are exactly those of the table. Of a row of `OUT` the entries below `HW_MAXBLOCK` are mapped,
which is the model's choice where that parameter is below 4096 (log 27). -/
def Obligations.RegisterMapIsTheTable : Prop :=
  (∀ (p : Params) (a : Nat) (r : Reg), Reg.ofAddr p a = some r → r.addr = a) ∧
  (∀ (p : Params) (a : Nat), p.Legal → a < 0x10000 →
    ((Reg.ofAddr p a).isSome = true ↔
      a ≤ 0x000C ∨ (0x0010 ≤ a ∧ a ≤ 0x0013) ∨ (0x0018 ≤ a ∧ a ≤ 0x001B) ∨ a = 0x0020 ∨ a = 0x0021 ∨ (0x0024 ≤ a ∧ a ≤ 0x0027) ∨
      (0x0030 ≤ a ∧ a ≤ 0x003F) ∨
      (∃ c j, c < p.nch ∧ j ≤ 3 ∧ a = 0x0040 + 4 * c + j) ∨
      (∃ q j, q ≤ 7 ∧ j ≤ 4 ∧ a = 0x0100 + 8 * q + j) ∨
      (∃ k j, k ≤ 7 ∧ j ≤ 13 ∧ a = 0x0200 + 16 * k + j) ∨
      (∃ m j, m < p.pv ∧ j ≤ 2 ∧ a = 0x0300 + 4 * m + j) ∨
      (∃ c i, c < p.nch ∧ i < p.hwMaxBlock ∧ a = 0x8000 + 0x1000 * c + i)))

/-! ### Rendering (spec/41, 43, 44, 45, 46) -/

/-- A `RENDER` that passes its checks completes (R247, R259): every chain register is the one its rule gives (R221, R231, R232, R240,
R246), `OUT_COUNT` is the count, and nothing changes but the voices, the pad voices, the filter and reverb state, the chain registers and
the output (R268). PadInv is R36, which every step keeps (StepKeepsPadsSound). -/
def Obligations.RenderCompletesAndSetsTheChain : Prop :=
  ∀ (s : State) (n : Nat), PadInv s → s.curPort = .p0 → s.prepared = true → n ≤ s.maxBlock.toNat →
    ∃ t : State, exec (.render n) s = .next t ∧ t.outCount.toNat = n ∧
      t = { s with voices := t.voices, padVoices := t.padVoices, chain := t.chain, flt := t.flt, rvs := t.rvs, out := t.out,
                   outCount := t.outCount } ∧
      t.chain.width = fadd fOne (fmul s.regs.atmosphere 0x3F99999A#32) ∧
      t.chain.mid = fmul fHalf (fadd fOne (fdiv fOne t.chain.width)) ∧
      t.chain.side = fmul fHalf (fsub fOne (fdiv fOne t.chain.width)) ∧
      t.chain.cutoffEff =
        fclamp (fmul s.regs.lowpassCutoff (fsub fOne (fmul s.regs.atmosphere fHalf))) 0x42C80000#32 0x469C4000#32 ∧
      t.chain.coefs = coefFn s.params t.chain.cutoffEff s.fs ∧
      t.chain.reverb.room = fmul s.regs.atmosphere 0x3F59999A#32 ∧
      t.chain.reverb.wet = fmul s.regs.atmosphere 0x3EE66666#32 ∧
      t.chain.reverb.dry = fsub fOne (fmul s.regs.atmosphere 0x3E800000#32) ∧
      t.chain.reverb.damp = fadd fHalf (fmul s.regs.atmosphere 0x3E99999A#32) ∧
      t.chain.reverb.width = fadd fHalf (fmul s.regs.atmosphere fHalf) ∧
      t.chain.reverb.freeze = fZero ∧
      t.chain.gainLin = s.regs.masterVolume

/-- `RENDER N` writes exactly the entries `0 .. N-1` of each channel, with the finished block, and leaves the others as they were
(R45, R260, R267). The block: the synth sum scaled by `SYNTH_LEVEL`, the pads on top of it, with two channels the stereo matrix of each
frame and with one channel nothing there, the filter of each channel, the reverb insert frame by frame with the state the frame before
left, and last the master gain (R222, R236, R244 to R246, R262 to R266); and the filter and reverb state the block leaves. -/
def Obligations.RenderWritesExactlyTheBlock : Prop :=
  ∀ (s t : State) (n : Nat), s.curPort = .p0 → s.prepared = true → n ≤ s.maxBlock.toNat → exec (.render n) s = .next t →
    (∀ c < s.params.nch,
      ((renderOut s n).getD c []).length = n ∧
      (∀ i < n, t.outWord c i = ((renderOut s n).getD c []).getD i fZero) ∧
      (∀ i, n ≤ i → t.outWord c i = s.outWord c i)) ∧
    ∃ (synth pads : Mix) (rv : Nat → Rvs),
      (∀ c < s.params.nch, (synth.getD c []).length = n ∧ ∀ i < n,
        (synth.getD c []).getD i fZero =
          fmul (((synthRender s.fs n s.voices (clearMix s.params.nch n)).2.getD c []).getD i fZero) s.regs.synthLevel) ∧
      pads = (padRender s n s.padVoices synth).2 ∧
      let at_ (c i : Nat) : F32 := (pads.getD c []).getD i fZero
      let sum (i : Nat) : F32 := fmul (fadd (at_ 0 i) (at_ 1 i)) t.chain.mid
      let dif (i : Nat) : F32 := fmul (fsub (at_ 0 i) (at_ 1 i)) t.chain.side
      let wide (c i : Nat) : F32 :=
        if s.params.nch < 2 then at_ c i
        else if c = 0 then fadd (sum i) (dif i)
        else if c = 1 then fsub (sum i) (dif i)
        else at_ c i
      let low (c : Nat) : List F32 × Biquad := filterRow t.chain.coefs (s.filter c) ((List.range n).map (wide c))
      let frame (i : Nat) : List F32 := (List.range s.params.nch).map (fun c => (low c).1.getD i fZero)
      (∀ c < s.params.nch, t.filter c = (low c).2) ∧
      rv 0 = s.rvs ∧ t.rvs = rv n ∧
      ∀ i < n,
        (s.params.reverb = .bypass →
          rv (i + 1) = rv i ∧ ∀ c < s.params.nch, t.outWord c i = fmul ((frame i).getD c fZero) s.regs.masterVolume) ∧
        (s.params.reverb = .free →
          rv (i + 1) = (Config.reverbFree t.chain.reverb (rv i) (frame i)).1 ∧
          ∀ c < s.params.nch,
            t.outWord c i = fmul ((Config.reverbFree t.chain.reverb (rv i) (frame i)).2.getD c fZero) s.regs.masterVolume)

/-- A rendered voice has gone through one envelope step and one phase advance per frame and is then freed if its envelope is Idle; an
inactive voice does not move (R166, R167). A frame advances the phase by `fdiv(FREQ, FS)`, whole periods removed (R161, R165). Its
frequency, velocity gain, note, envelope times and rates are untouched (R268). -/
def Obligations.RenderAdvancesActiveVoices : Prop :=
  (∀ (s t : State) (n : Nat), s.curPort = .p0 → s.prepared = true → n ≤ s.maxBlock.toNat → exec (.render n) s = .next t →
    t.voices = s.voices.map (fun v => if v.active then voiceFree ((voiceStep s.fs)^[n] v) else v) ∧
    ∀ k < s.voices.length,
      (t.voice k).freq = (s.voice k).freq ∧ (t.voice k).velgain = (s.voice k).velgain ∧ (t.voice k).note = (s.voice k).note ∧
      (t.voice k).env.attack = (s.voice k).env.attack ∧ (t.voice k).env.decay = (s.voice k).env.decay ∧
      (t.voice k).env.sustain = (s.voice k).env.sustain ∧ (t.voice k).env.release = (s.voice k).env.release ∧
      (t.voice k).env.arate = (s.voice k).env.arate ∧ (t.voice k).env.drate = (s.voice k).env.drate ∧
      (t.voice k).env.rrate = (s.voice k).env.rrate) ∧
  (∀ (fs : F32) (v : Voice),
    voiceStep fs v = { v with env := envNextSample v.env, phase := phaseAdvance v.phase (fdiv v.freq fs) }) ∧
  (∀ phase inc : F32,
    phaseAdvance phase inc =
      if isFinite (fadd phase inc) = true then fsub (fadd phase inc) (floor32 (fadd phase inc)) else 0x00000000#32) ∧
  ∀ v : Voice, voiceFree v = if v.env.stage = .idle then { v with active := false } else v

/-- The synth's part of a frame is the sum, from `+0.0` and in increasing voice index, of the active voices' samples: rendering voice by
voice gives what rendering frame by frame would (R164, R166, R169, R262). -/
def Obligations.SynthSumIsInVoiceOrder : Prop :=
  ∀ (fs : F32) (n nch c i : Nat) (vs : List Voice), c < nch → i < n →
    ((synthRender fs n vs (clearMix nch n)).2.getD c []).getD i fZero =
      vs.foldl (fun acc v =>
        if v.active then
          let u := (voiceStep fs)^[i] v
          fadd acc (fmul (fmul (fmul (fsub (fmul 0x40000000#32 u.phase) 0x3F800000#32) (envNextSample u.env).level) v.velgain)
            0x3E99999A#32)
        else acc) fZero

/-- Every active pad voice plays `min(L - pos, N)` frames: its position advances by them, and it is idle when the position has reached
the buffer's end; an idle voice stays (R210). -/
def Obligations.RenderAdvancesPadVoices : Prop :=
  ∀ (s t : State) (n : Nat), PadInv s → s.curPort = .p0 → s.prepared = true → n ≤ s.maxBlock.toNat → exec (.render n) s = .next t →
    t.padVoices.length = s.padVoices.length ∧
    ∀ m < s.padVoices.length,
      let v := s.padVoice m
      let len : Nat := (s.pad v.src.toNat).frames.toNat
      (t.padVoice m).src = v.src ∧ (t.padVoice m).gain = v.gain ∧
      (v.pos.toInt < 0 → (t.padVoice m).pos = v.pos) ∧
      (0 ≤ v.pos.toInt → v.pos.toInt + n < len → (t.padVoice m).pos.toInt = v.pos.toInt + n) ∧
      (0 ≤ v.pos.toInt → len ≤ v.pos.toInt + n → (t.padVoice m).pos.toInt = -1)

/-- The pads' part of a frame is added to what the mix holds in increasing pad voice index: frame `pos + i` of the slot, source channel
`min(c, C - 1)`, scaled by the gain, for the frames the voice still has (R90, R210, R211, R284 c). -/
def Obligations.PadSumIsInVoiceOrder : Prop :=
  ∀ (s : State) (n c i : Nat) (vs : List PadVoice) (mix : Mix), c < s.params.nch → i < n →
    mix.length = s.params.nch → (∀ row ∈ mix, row.length = n) →
    ((padRender s n vs mix).2.getD c []).getD i fZero =
      vs.foldl (fun acc v =>
        let slot := s.pad v.src.toNat
        if 0 ≤ v.pos.toInt ∧ (i : Int) < min ((slot.frames.toNat : Int) - v.pos.toInt) n then
          fadd acc (fmul (pmRead s ((slot.base.toNat : Int) + (v.pos.toInt + i) * slot.chans.toNat +
            min (c : Int) ((slot.chans.toNat : Int) - 1)).toNat) v.gain)
        else acc) ((mix.getD c []).getD i fZero)

/-- At `ATMOSPHERE = 0` the stereo matrix is not the identity: `MID = 1.0`, `SIDE = 0.0` and both outputs are `fadd(L, R)`, for inputs
whose difference is finite and whose sum is not `-0.0` (R221, R222, R224). -/
def Obligations.WidthAtZeroAtmosphereIsTheSum : Prop :=
  midOf 0x00000000#32 = 0x3F800000#32 ∧ sideOf 0x00000000#32 = 0x00000000#32 ∧
  ∀ l r : F32, isFinite (fsub l r) = true → fadd l r ≠ 0x80000000#32 →
    widthLeft 0x3F800000#32 0x00000000#32 l r = fadd l r ∧ widthRight 0x3F800000#32 0x00000000#32 l r = fadd l r

/-- The effective cutoff (R231): its formula, that it is in [100, 20000] for every legal cutoff and atmosphere, and that at
`ATMOSPHERE = 1.0` it is exactly half the cutoff parameter, clamped. -/
def Obligations.EffectiveCutoffIsClamped : Prop :=
  (∀ cutoff atmos : F32,
    cutoffEffOf cutoff atmos = fclamp (fmul cutoff (fsub fOne (fmul atmos fHalf))) 0x42C80000#32 0x469C4000#32) ∧
  (∀ cutoff atmos : F32, ParamReg.lowpassCutoff.legal cutoff = true → ParamReg.atmosphere.legal atmos = true →
    ParamReg.lowpassCutoff.legal (cutoffEffOf cutoff atmos) = true) ∧
  (∀ cutoff : F32, ParamReg.lowpassCutoff.legal cutoff = true →
    2 * fScaled (fmul cutoff fHalf) = fScaled cutoff ∧
    cutoffEffOf cutoff fOne = fclamp (fmul cutoff fHalf) 0x42C80000#32 0x469C4000#32)

/-- The biquad of one channel is a recurrence over frames: filtering a block of two parts is filtering the first and then the second with
the state the first left, and one frame is R234 with the update of R235 (R234, R235, R236). -/
def Obligations.FilterIsAFrameRecurrence : Prop :=
  (∀ (k : Coefs) (b : Biquad) (x : F32),
    filterRow k b [x] =
      ([fsub (fsub (fadd (fadd (fmul k.b0 x) (fmul k.b1 b.x1)) (fmul k.b2 b.x2)) (fmul k.a1 b.y1)) (fmul k.a2 b.y2)],
       { x1 := x, x2 := b.x1, y2 := b.y1,
         y1 := fsub (fsub (fadd (fadd (fmul k.b0 x) (fmul k.b1 b.x1)) (fmul k.b2 b.x2)) (fmul k.a1 b.y1)) (fmul k.a2 b.y2) })) ∧
  (∀ (k : Coefs) (b : Biquad) (xs ys : List F32),
    filterRow k b (xs ++ ys) =
      ((filterRow k b xs).1 ++ (filterRow k (filterRow k b xs).2 ys).1, (filterRow k (filterRow k b xs).2 ys).2))

/-- Splitting a block (R270): `N1` frames and then `N2` give the audio of one block of `N1 + N2` and leave the same state but for the
output, and but for the phase of a voice whose envelope reached Idle in the first `N1` frames: every voice that was inactive before, and
every voice still active after the first block, is left the same whole. For finite velocity gains, in a state with the invariants of R25,
R36, R41 and R168. A `REVERB_FN`, bypass or free, takes one frame at a time, so it has the property R270 asks of it. -/
def Obligations.SplitBlockGivesTheSameAudio : Prop :=
  ∀ (s : State) (n₁ n₂ : Nat), ShapeInv s → VoicesSettled s → RangeInv s → PadInv s → s.curPort = .p0 → s.prepared = true →
    (∀ v ∈ s.voices, v.active = true → isFinite v.velgain = true) → n₁ + n₂ ≤ s.maxBlock.toNat →
    let one := renderBlock s (n₁ + n₂)
    let first := renderBlock s n₁
    let second := renderBlock first n₂
    exec (.render (n₁ + n₂)) s = .next one ∧ exec (.render n₁) s = .next first ∧ exec (.render n₂) first = .next second ∧
    (∀ c < s.params.nch,
      (∀ i < n₁, first.outWord c i = one.outWord c i) ∧ (∀ i < n₂, second.outWord c i = one.outWord c (n₁ + i))) ∧
    second = { one with voices := second.voices, out := second.out, outCount := second.outCount } ∧
    second.voices.length = one.voices.length ∧
    ∀ k : Nat,
      ((s.voice k).active = false ∨ (first.voice k).active = true → second.voice k = one.voice k) ∧
      { (second.voice k) with phase := (one.voice k).phase } = one.voice k ∧
      ((one.voice k).active = true → second.voice k = one.voice k)

/-! ### Arithmetic, envelope and oscillator -/

/-- The arithmetic of R9. A pattern's value is read off its three fields. `roundMag` is rounding to nearest, ties to even: no binary32
magnitude is nearer the exact `num / den` (in units of 2^-149) than the result, and where another is as near the result's last bit is 0;
it overflows to infinity exactly from half a last place above the largest finite value on. Each of the four operations is its exact result
rounded once, with the sign rule of an exact zero, the cases of infinities and of a zero divisor, and the one NaN. The comparisons order
the values, a NaN being false in each. `floor32` of R11 is exact. -/
def Obligations.RoundingIsToNearestEven : Prop :=
  (∀ num den : Nat, 0 < den → roundMag num den < 0x7F800000 → ∀ other : Nat, other < 0x7F800000 → other ≠ roundMag num den →
    let dist : Nat → Nat := fun bits => ((num : Int) - (fMag (fMake false bits) * den : Nat)).natAbs
    dist (roundMag num den) ≤ dist other ∧ (dist (roundMag num den) = dist other → roundMag num den % 2 = 0)) ∧
  (∀ num den : Nat, 0 < den →
    roundMag num den ≤ 0x7F800000 ∧ (roundMag num den = 0x7F800000 ↔ (2 ^ 25 - 1) * 2 ^ 252 * den ≤ num)) ∧
  (∀ x : F32,
    let e : Nat := (x.extractLsb' 23 8).toNat
    let f : Nat := (x.extractLsb' 0 23).toNat
    (isNaN x = true ↔ e = 255 ∧ f ≠ 0) ∧ (isInf x = true ↔ e = 255 ∧ f = 0) ∧ (isFinite x = true ↔ e < 255) ∧
    fSign x = x.getLsbD 31 ∧ fMag x = (if e = 0 then f else (2 ^ 23 + f) * 2 ^ (e - 1)) ∧
    fScaled x = (if x.getLsbD 31 = true then -(fMag x : Int) else (fMag x : Int))) ∧
  let signed (neg : Bool) (bits : Nat) : F32 := BitVec.ofNat 32 (if neg then 0x80000000 + bits else bits)
  let rounded (v : Int) : F32 := signed (decide (v < 0)) (roundMag v.natAbs 1)
  (∀ a b : F32, isNaN a = true ∨ isNaN b = true →
    fadd a b = 0x7FC00000#32 ∧ fsub a b = 0x7FC00000#32 ∧ fmul a b = 0x7FC00000#32 ∧ fdiv a b = 0x7FC00000#32 ∧
    flt a b = false ∧ fle a b = false ∧ feq a b = false) ∧
  (∀ a b : F32, isFinite a = true → isFinite b = true →
    fadd a b = (if fScaled a + fScaled b = 0 then signed (fSign a && fSign b) 0 else rounded (fScaled a + fScaled b)) ∧
    fsub a b = (if fScaled a - fScaled b = 0 then signed (fSign a && !fSign b) 0 else rounded (fScaled a - fScaled b)) ∧
    fmul a b = signed (fSign a != fSign b) (roundMag (fMag a * fMag b) (2 ^ 149)) ∧
    fdiv a b =
      (if fMag b ≠ 0 then signed (fSign a != fSign b) (roundMag (fMag a * 2 ^ 149) (fMag b))
       else if fMag a ≠ 0 then signed (fSign a != fSign b) 0x7F800000
       else 0x7FC00000#32) ∧
    flt a b = decide (fScaled a < fScaled b) ∧ fle a b = decide (fScaled a ≤ fScaled b) ∧ feq a b = decide (fScaled a = fScaled b)) ∧
  (∀ a b : F32, isInf a = true → isFinite b = true →
    fadd a b = a ∧ fadd b a = a ∧ fsub a b = a ∧ fsub b a = signed (!fSign a) 0x7F800000 ∧
    fmul a b = (if fMag b = 0 then 0x7FC00000#32 else signed (fSign a != fSign b) 0x7F800000) ∧
    fmul b a = (if fMag b = 0 then 0x7FC00000#32 else signed (fSign a != fSign b) 0x7F800000) ∧
    fdiv a b = signed (fSign a != fSign b) 0x7F800000 ∧ fdiv b a = signed (fSign a != fSign b) 0 ∧
    flt a b = fSign a ∧ flt b a = !fSign a ∧ fle a b = fSign a ∧ fle b a = !fSign a ∧ feq a b = false ∧ feq b a = false) ∧
  (∀ a b : F32, isInf a = true → isInf b = true →
    fadd a b = (if fSign a = fSign b then a else 0x7FC00000#32) ∧ fsub a b = (if fSign a = fSign b then 0x7FC00000#32 else a) ∧
    fmul a b = signed (fSign a != fSign b) 0x7F800000 ∧ fdiv a b = 0x7FC00000#32 ∧
    flt a b = (fSign a && !fSign b) ∧ fle a b = (fSign a || !fSign b) ∧ feq a b = (fSign a == fSign b)) ∧
  ∀ x : F32, isFinite x = true →
    isFinite (floor32 x) = true ∧ fScaled (floor32 x) = fScaled x / 2 ^ 149 * 2 ^ 149

/-- The saw (R163): its formula, that it maps [0, 1) into [-1, 1), and its values at the ends and in the middle. -/
def Obligations.SawStaysInRange : Prop :=
  (∀ p : F32, saw p = fsub (fmul fTwo p) fOne) ∧
  (∀ p : F32, inUnitOpen p = true → fScaled (fmul fTwo p) = 2 * fScaled p ∧ fle 0xBF800000#32 (saw p) = true ∧ flt (saw p) fOne = true) ∧
  saw 0x00000000#32 = 0xBF800000#32 ∧ saw 0x3F000000#32 = 0x00000000#32 ∧ saw 0x3F7FFFFF#32 = 0x3F7FFFFE#32

/-- The phase advance (R165): the sum of phase and increment with all whole periods removed, or `+0.0` when it is not finite. It stays in
[0, 1) for every non-negative increment, infinity included (R168); a sum below 1 is kept, and one in [1, 2) loses exactly 1. -/
def Obligations.PhaseAdvanceStaysInUnit : Prop :=
  ∀ phase inc : F32, inUnitOpen phase = true → nonNeg inc = true →
    phaseAdvance phase inc =
      (if isFinite (fadd phase inc) = true then fsub (fadd phase inc) (floor32 (fadd phase inc)) else fZero) ∧
    inUnitOpen (phaseAdvance phase inc) = true ∧
    (flt (fadd phase inc) fOne = true → phaseAdvance phase inc = fadd phase inc) ∧
    (fle fOne (fadd phase inc) = true → flt (fadd phase inc) fTwo = true →
      fScaled (phaseAdvance phase inc) = fScaled (fadd phase inc) - fScaled fOne) ∧
    (fadd phase inc = fOne → phaseAdvance phase inc = fZero)

/-- The level and the sustain ratio stay in [0, 1], and so are never NaN, over each envelope operation, when they are before it, the
registers are legal and the stored rates are non-negative numbers or infinity (R151, with R152 for the rates). -/
def Obligations.EnvelopeLevelStaysInUnit : Prop :=
  ∀ e : Env, inUnit e.level = true → inUnit e.sustain = true → nonNeg e.arate = true → nonNeg e.drate = true → nonNeg e.rrate = true →
    inUnit (envNextSample e).level = true ∧ inUnit (envNextSample e).sustain = true ∧
    inUnit (envNoteOn e).level = true ∧ inUnit (envNoteOn e).sustain = true ∧
    (∀ fs, inUnit (envNoteOff fs e).level = true ∧ inUnit (envNoteOff fs e).sustain = true) ∧
    inUnit (envReset e).level = true ∧ inUnit (envReset e).sustain = true ∧
    (∀ (r : ParamRegs) (fs : F32), ParamReg.envSustain.legal r.envSustain = true →
      inUnit (envConfigure r fs e).level = true ∧ inUnit (envConfigure r fs e).sustain = true)

/-- One sample of the envelope in each stage: the new level and the stage it goes on in (R145 to R149). -/
def Obligations.EnvelopeSampleFollowsItsStage : Prop :=
  ∀ e : Env,
    (e.stage = .idle → envNextSample e = { e with level := fZero }) ∧
    (e.stage = .attack →
      (fge (fadd e.level e.arate) fOne = false → envNextSample e = { e with level := fadd e.level e.arate }) ∧
      (fge (fadd e.level e.arate) fOne = true → fgt e.decay fZero = true →
        envNextSample e = { e with level := fOne, stage := .decay }) ∧
      (fge (fadd e.level e.arate) fOne = true → fgt e.decay fZero = false →
        envNextSample e = { e with level := e.sustain, stage := .sustain })) ∧
    (e.stage = .decay →
      (fle (fsub e.level e.drate) e.sustain = false → envNextSample e = { e with level := fsub e.level e.drate }) ∧
      (fle (fsub e.level e.drate) e.sustain = true → envNextSample e = { e with level := e.sustain, stage := .sustain })) ∧
    (e.stage = .sustain → envNextSample e = { e with level := e.sustain }) ∧
    (e.stage = .release →
      (fle (fsub e.level e.rrate) fZero = false → envNextSample e = { e with level := fsub e.level e.rrate }) ∧
      (fle (fsub e.level e.rrate) fZero = true → envNextSample e = { e with level := fZero, stage := .idle }))

/-! ### Pad pool properties -/

/-- The round robin of the pad pool (R201): `PV` triggers of a loaded pad occupy all `PV` voices at position 0 on that pad and bring the
cursor back; one more, of any loaded pad, binds the voice the first of them took to its pad, at position 0 with the clamped gain, and
moves the cursor one on; the other voices stay. -/
def Obligations.PadPoolIsRoundRobin : Prop :=
  ∀ (s : State) (p : Nat) (vel : F32), ShapeInv s → p < 8 → (s.pad p).loaded = true →
    let full := (padTrigger p vel)^[s.params.pv] s
    (∀ m < s.params.pv, full.padVoice m = ⟨BitVec.ofNat 3 p, 0#32, fclamp vel 0x00000000#32 0x3F800000#32⟩) ∧
    full.padNext = s.padNext ∧
    ∀ (q : Nat) (vel' : F32), q < 8 → (full.pad q).loaded = true →
      (padTrigger q vel' full).padVoice s.padNext.toNat = ⟨BitVec.ofNat 3 q, 0#32, fclamp vel' 0x00000000#32 0x3F800000#32⟩ ∧
      (padTrigger q vel' full).padNext.toNat = (s.padNext.toNat + 1) % s.params.pv ∧
      ∀ m < s.params.pv, m ≠ s.padNext.toNat → (padTrigger q vel' full).padVoice m = full.padVoice m

/-- A triggered sample of `L` frames is consumed exactly (R214): after `b` blocks of `N >= 1` frames with `b * N < L` the position is
`b * N`, and after `ceil(L / N)` blocks the voice is idle. -/
def Obligations.SampleIsConsumedExactly : Prop :=
  ∀ (slot : PadSlot) (v : PadVoice) (n : Nat), 1 ≤ n → 1 ≤ slot.frames.toNat → slot.frames.toNat < 2 ^ 31 → v.pos = 0#32 →
    let block : PadVoice → PadVoice := fun u => if u.active then padVoiceAdvance slot u (padFrames slot u n) else u
    (∀ b : Nat, b * n < slot.frames.toNat → (block^[b] v).pos.toInt = (b * n : Nat)) ∧
    (block^[(slot.frames.toNat + n - 1) / n] v).active = false

/-! ### Whole-machine rules -/

/-- Who writes what, over every command and port (R21, R24, R31 to R35, R38, R43, R45, R80, R256 to R258, R268): a piece of state that a
command changes is one its rule names. The voice fields are those of R24; that a `NOTE_OFF` frees a voice whose envelope is Idle already
is about states that R25 excludes (log 24). The error registers change by the fault entry of R296 only, and then nothing else does but a
response queue. -/
def Obligations.OnlyTheNamedCommandsWrite : Prop :=
  ∀ (i : Instr) (s t : State), exec i s = .next t →
    t.params = s.params ∧ t.cq0 = s.cq0 ∧ t.cq1 = s.cq1 ∧ t.curPort = s.curPort ∧ t.curCmd = s.curCmd ∧
    t.pmEpoch = s.pmEpoch ∧ t.arbCount = s.arbCount ∧
    (t.pads ≠ s.pads → ∃ p, i = .padLoad p ∨ i = .padClear p) ∧
    (t.pm ≠ s.pm → ∃ w, i = .wrreg 0x0021 w) ∧
    (t.out ≠ s.out → ∃ n, i = .render n) ∧
    (t.outCount ≠ s.outCount → ∃ n, i = .render n) ∧
    (t.chain ≠ s.chain → ∃ n, i = .render n) ∧
    (t.prepared ≠ s.prepared → (∃ n r, i = .prepare n r) ∨ i = .release) ∧
    (t.fs ≠ s.fs ∨ t.maxBlock ≠ s.maxBlock → ∃ n r, i = .prepare n r) ∧
    (t.regs ≠ s.regs → ∃ (r : ParamReg) (w : Word), i = .wrreg r.addr w) ∧
    (t.loadOk0 ≠ s.loadOk0 ∨ t.loadOk1 ≠ s.loadOk1 → ∃ p, i = .padLoad p) ∧
    (t.rq0 ≠ s.rq0 ∨ t.rq1 ≠ s.rq1 → ∃ a, i = .rdreg a) ∧
    (t.synthNext ≠ s.synthNext → (∃ n c v, i = .noteOn n c v) ∨ (∃ n r, i = .prepare n r) ∨ i = .release) ∧
    (t.flt ≠ s.flt ∨ t.rvs ≠ s.rvs → (∃ n, i = .render n) ∨ (∃ n r, i = .prepare n r) ∨ i = .release) ∧
    let clears : Prop := (∃ n r, i = .prepare n r) ∨ i = .release
    let renders : Prop := ∃ n, i = .render n
    let starts : Prop := ∃ n c v, i = .noteOn n c v ∧ (n < 36 ∨ 43 < n)
    let stops : Prop := ∃ n c v, i = .noteOff n c v
    let cuts : Prop := ∃ n c v, i = .noteCut n c v
    let triggers : Prop := (∃ p v, i = .padTrig p v) ∨ (∃ n c v, i = .noteOn n c v ∧ 36 ≤ n ∧ n ≤ 43)
    (t.voices ≠ s.voices → starts ∨ stops ∨ cuts ∨ renders ∨ clears) ∧
    (∀ k : Nat,
      let v := s.voice k
      let u := t.voice k
      (u.phase ≠ v.phase → renders ∨ clears) ∧
      (u.freq ≠ v.freq ∨ u.velgain ≠ v.velgain ∨ u.note ≠ v.note → starts ∨ clears) ∧
      (u.env.attack ≠ v.env.attack ∨ u.env.decay ≠ v.env.decay ∨ u.env.sustain ≠ v.env.sustain ∨ u.env.release ≠ v.env.release ∨
        u.env.arate ≠ v.env.arate ∨ u.env.drate ≠ v.env.drate → starts ∨ clears) ∧
      (u.env.rrate ≠ v.env.rrate → stops ∨ clears) ∧
      (u.env.stage ≠ v.env.stage → starts ∨ stops ∨ cuts ∨ renders ∨ clears) ∧
      (u.env.level ≠ v.env.level → starts ∨ (stops ∧ fgt v.env.release fZero = false) ∨ cuts ∨ renders ∨ clears) ∧
      (u.active ≠ v.active →
        starts ∨ (stops ∧ (fgt v.env.release fZero = false ∨ v.env.stage = .idle)) ∨ cuts ∨ renders ∨ clears)) ∧
    (t.padVoices ≠ s.padVoices → triggers ∨ (∃ p, i = .padLoad p ∨ i = .padClear p) ∨ renders ∨ clears) ∧
    (∀ m : Nat, (t.padVoice m).src ≠ (s.padVoice m).src ∨ (t.padVoice m).gain ≠ (s.padVoice m).gain → triggers ∨ clears) ∧
    (t.padNext ≠ s.padNext → triggers ∨ clears) ∧
    (t.staging.pmAddr ≠ s.staging.pmAddr → (∃ w, i = .wrreg 0x0020 w ∨ i = .wrreg 0x0021 w) ∨ i = .rdreg 0x0021) ∧
    (t.staging.base ≠ s.staging.base → ∃ w, i = .wrreg 0x0024 w) ∧
    (t.staging.frames ≠ s.staging.frames → ∃ w, i = .wrreg 0x0025 w) ∧
    (t.staging.chans ≠ s.staging.chans → ∃ w, i = .wrreg 0x0026 w) ∧
    (t.staging.fileid ≠ s.staging.fileid → ∃ w, i = .wrreg 0x0027 w) ∧
    (t.err ≠ s.err → ∃ code : FaultCode,
      t = { s with err := errorEntry code s.curPort s.curCmd s.err, rq0 := t.rq0, rq1 := t.rq1 })

/-- Port P1 cannot touch the real-time side (R126, R301, R310): a command from P1 leaves the engine state, the synth voices, the cursor,
the filter and reverb state, the chain registers, the output and P0's load flag and responses as they are. -/
def Obligations.PortOneCannotTouchTheEngine : Prop :=
  ∀ (i : Instr) (s t : State), s.curPort = .p1 → exec i s = .next t →
    t.prepared = s.prepared ∧ t.fs = s.fs ∧ t.maxBlock = s.maxBlock ∧ t.voices = s.voices ∧ t.synthNext = s.synthNext ∧
    t.flt = s.flt ∧ t.rvs = s.rvs ∧ t.chain = s.chain ∧ t.out = s.out ∧ t.outCount = s.outCount ∧ t.loadOk0 = s.loadOk0 ∧
    t.rq0 = s.rq0

/-- Every step answers a next state when R36 holds: no ordinary data ends a run, and the model's own stop is never reached
(R36, R247, R290). -/
def Obligations.StepNeverStops : Prop :=
  ∀ s : State, PadInv s → ∃ t, step s = .next t

/-! ### Invariants -/

/-- Every step keeps the sizes of the arrays and `PAD_NEXT` in `0 .. PV-1` (R20, R35). -/
def Obligations.StepKeepsShape : Prop :=
  ∀ s t : State, ShapeInv s → step s = .next t → ShapeInv t

/-- Every step keeps `ACTIVE` equal to "the envelope is not Idle" and inactive voices silent (R25 c and d). -/
def Obligations.StepKeepsVoicesSettled : Prop :=
  ∀ s t : State, VoicesSettled s → step s = .next t → VoicesSettled t

/-- Every step keeps the pad slots and the pad voices sound (R36). -/
def Obligations.StepKeepsPadsSound : Prop :=
  ∀ s t : State, PadInv s → step s = .next t → PadInv t

/-- Every step keeps the phase in [0, 1), the level in [0, 1], the parameters in their legal ranges and a prepared engine's rate and block
size legal (R25 a and b, R41, R42, R151, R168), for legal open parameters. -/
def Obligations.StepKeepsRanges : Prop :=
  ∀ s t : State, s.params.Legal → RangeInv s → step s = .next t → RangeInv t

/-- Every step keeps the memories in their canonical form and within the words that exist; a prepared engine's block fits the output
buffer (R45, R82). The canonical form is the model's own (log 5, 15). -/
def Obligations.StepKeepsMemoriesCanonical : Prop :=
  ∀ s t : State, s.params.Legal → PreparedInv s → MemInv s → step s = .next t → MemInv t

/-- The number of active voices grows by at most one per `NOTE_ON` and by nothing else (R184, R187). -/
def Obligations.ActiveVoicesGrowByAtMostOne : Prop :=
  ∀ (i : Instr) (s t : State), s.voices.length = 8 → exec i s = .next t →
    t.voices.countP (fun v => v.active) ≤ 8 ∧
    t.voices.countP (fun v => v.active) ≤ s.voices.countP (fun v => v.active) + 1 ∧
    ((∀ n c v, i ≠ .noteOn n c v) → t.voices.countP (fun v => v.active) ≤ s.voices.countP (fun v => v.active))

/-- Every invariant holds right after reset, for all legal open parameters; and the external reset of R320 gives the state after reset,
but for the model's two counters of free choices (log 7, 14). -/
def Obligations.ResetMeetsEveryInvariant : Prop :=
  (∀ p : Params, p.Legal →
    ShapeInv (State.resetWith p) ∧ VoicesSettled (State.resetWith p) ∧ RangeInv (State.resetWith p) ∧ PadInv (State.resetWith p) ∧
    MemInv (State.resetWith p) ∧ ErrorInv (State.resetWith p) ∧ Quiet (State.resetWith p)) ∧
  ∀ s : State, { externalReset s with pmEpoch := 0, arbCount := 0 } = State.resetWith s.params

/-- The reset values of R50, for all open parameters: every register and view through its address, and the parts that have no address.
`ID` and `STATUS` are among the addresses; the words of pad sample memory, which R50 leaves unspecified, are not spoken of. -/
def Obligations.ResetLeavesTheValuesOfTheTable : Prop :=
  (∀ (p : Params) (a : Nat) (r : Reg), Reg.ofAddr p a = some r → r ≠ .pmData →
    regValue (State.resetWith p) r =
      (if a = 0x0000 then 0x48390007#32 else if a = 0x0010 then 0x3F400000#32 else if a = 0x0011 then 0x469C4000#32
       else if a = 0x0013 then 0x3F000000#32 else if a = 0x0018 then 0x3C23D70A#32 else if a = 0x0019 then 0x3DCCCCCD#32
       else if a = 0x001A then 0x3F4CCCCD#32 else if a = 0x001B then 0x3E4CCCCD#32
       else if 0x0300 ≤ a ∧ a < 0x8000 ∧ a % 4 = 1 then 0xFFFFFFFF#32 else 0#32)) ∧
  (∀ p : Params,
    (State.resetWith p).prepared = false ∧ (State.resetWith p).rvs = rvsInitOf p ∧
    (State.resetWith p).cq0 = [] ∧ (State.resetWith p).cq1 = [] ∧ (State.resetWith p).rq0 = [] ∧ (State.resetWith p).rq1 = []) ∧
  State.reset = State.resetWith Params.spec
end

