-- ==== Sys2Proof/Laws/Float.lean ====
section
/-!
SUPPORT. The lemmas of binary32 arithmetic: the classes of values, what each operation does with a NaN, the comparisons as orders of
`fKey`, and what a clamp can answer.
-/
namespace Sys2Proof.Machine

/-! ### Classes -/

theorem fMagBits_lt (x : F32) : fMagBits x < 2 ^ 31 := Nat.mod_lt _ (by decide)

theorem isNaN_iff (x : F32) : isNaN x = true ↔ 0x7F800000 < fMagBits x := by simp [isNaN]

theorem isInf_iff (x : F32) : isInf x = true ↔ fMagBits x = 0x7F800000 := by simp [isInf]

theorem isFinite_iff (x : F32) : isFinite x = true ↔ fMagBits x < 0x7F800000 := by simp [isFinite]

/-- Every value is a NaN, an infinity or finite, and only one of them. -/
theorem float_classes (x : F32) :
    (isNaN x = true ∧ isInf x = false ∧ isFinite x = false) ∨ (isNaN x = false ∧ isInf x = true ∧ isFinite x = false) ∨
      (isNaN x = false ∧ isInf x = false ∧ isFinite x = true) := by
  simp only [isNaN, isInf, isFinite, decide_eq_true_eq, decide_eq_false_iff_not]
  omega

/-- A value is its sign and its magnitude bits. -/
theorem fMake_self (x : F32) : fMake (fSign x) (fMagBits x) = x := by
  apply BitVec.eq_of_toNat_eq
  have := x.isLt
  simp only [fMake, fSign, fMagBits, BitVec.toNat_ofNat, decide_eq_true_eq]
  split <;> omega

theorem fMake_toNat (neg : Bool) (bits : Nat) (h : bits < 2 ^ 31) :
    (fMake neg bits).toNat = if neg then 2 ^ 31 + bits else bits := by
  simp only [fMake, BitVec.toNat_ofNat]
  split <;> omega

@[simp] theorem fMagBits_fMake (neg : Bool) (bits : Nat) (h : bits < 2 ^ 31) : fMagBits (fMake neg bits) = bits := by
  simp only [fMagBits, fMake_toNat neg bits h]
  split <;> omega

@[simp] theorem fSign_fMake (neg : Bool) (bits : Nat) (h : bits < 2 ^ 31) : fSign (fMake neg bits) = neg := by
  simp only [fSign, fMake_toNat neg bits h]
  cases neg <;> simp
  omega

/-- Rounding never goes past infinity. -/
theorem roundMag_le (num den : Nat) : roundMag num den ≤ 0x7F800000 := Nat.min_le_right _ _

/-- What is rounded is not a NaN. -/
theorem isNaN_fMake_roundMag (neg : Bool) (num den : Nat) : isNaN (fMake neg (roundMag num den)) = false := by
  have h := roundMag_le num den
  have hm := fMagBits_fMake neg (roundMag num den) (by omega)
  simp only [isNaN, decide_eq_false_iff_not, hm]
  omega

/-! ### NaN operands -/

theorem fadd_nan (a b : F32) (h : isNaN a = true ∨ isNaN b = true) : fadd a b = fNaN := by
  unfold fadd
  rw [if_pos (by simpa [Bool.or_eq_true] using h)]

theorem fmul_nan (a b : F32) (h : isNaN a = true ∨ isNaN b = true) : fmul a b = fNaN := by
  unfold fmul
  rw [if_pos (by simpa [Bool.or_eq_true] using h)]

theorem fdiv_nan (a b : F32) (h : isNaN a = true ∨ isNaN b = true) : fdiv a b = fNaN := by
  unfold fdiv
  rw [if_pos (by simpa [Bool.or_eq_true] using h)]

/-! ### Comparisons -/

theorem flt_iff (a b : F32) : flt a b = true ↔ isNaN a = false ∧ isNaN b = false ∧ fKey a < fKey b := by
  simp [flt, and_assoc]

theorem fle_iff (a b : F32) : fle a b = true ↔ isNaN a = false ∧ isNaN b = false ∧ fKey a ≤ fKey b := by
  simp [fle, and_assoc]

theorem fle_trans (a b c : F32) (h : fle a b = true) (g : fle b c = true) : fle a c = true := by
  rw [fle_iff] at *
  exact ⟨h.1, g.2.1, Int.le_trans h.2.2 g.2.2⟩

/-- Of two numbers one is not above the other. -/
theorem fle_total (a b : F32) (ha : isNaN a = false) (hb : isNaN b = false) : fle a b = true ∨ fle b a = true := by
  rcases Int.le_total (fKey a) (fKey b) with h | h
  · exact .inl ((fle_iff a b).2 ⟨ha, hb, h⟩)
  · exact .inr ((fle_iff b a).2 ⟨hb, ha, h⟩)

/-! ### Clamps and guards -/

theorem fclamp_cases (x lo hi : F32) : fclamp x lo hi = lo ∨ fclamp x lo hi = hi ∨ fclamp x lo hi = x := by
  unfold fclamp
  split_ifs <;> simp

theorem legalise_cases (v lo hi : F32) : legalise v lo hi = lo ∨ legalise v lo hi = hi ∨ legalise v lo hi = v := by
  unfold legalise
  split_ifs <;> simp

/-- A guarded rate is not a NaN. -/
theorem isNaN_guardRate (x : F32) : isNaN (guardRate x) = false := by
  unfold guardRate
  cases h : isNaN x with
  | true => rfl
  | false => simpa using h

end Sys2Proof.Machine
end

