-- ==== Sys2Proof/Laws/Memory.lean ====
section
/-!
SUPPORT. The laws of the sparse memories: what is read after a write, and that every memory operation keeps the canonical form
(`Memory.wf`, and `Memory.noZero` for a row of `OUT`).
-/
namespace Sys2Proof.Machine

/-! ### The canonical form -/

/-- Every entry of a memory after its first lies above an address. -/
def Memory.above (a : Nat) (m : Memory) : Prop := ∀ e ∈ m, a < e.1

theorem Memory.wf_cons (e : WordCell) (m : Memory) :
    Memory.wf (e :: m) = true ↔ Memory.above e.1 m ∧ Memory.wf m = true := by
  induction m generalizing e with
  | nil => simp [Memory.wf, Memory.above]
  | cons f m ih =>
    have h := ih f
    simp only [Memory.wf, Bool.and_eq_true, decide_eq_true_eq, Memory.above, List.mem_cons, forall_eq_or_imp]
    constructor
    · rintro ⟨hef, hf⟩
      refine ⟨⟨hef, fun x hx => ?_⟩, hf⟩
      exact Nat.lt_trans hef ((h.1 hf).1 x hx)
    · rintro ⟨⟨hef, _⟩, hf⟩
      exact ⟨hef, hf⟩

theorem Memory.mem_insert (m : Memory) (a : Nat) (v : Word) (e : WordCell) :
    e ∈ Memory.insert m a v → e = (a, v) ∨ e ∈ m := by
  induction m with
  | nil => simp [Memory.insert]
  | cons f m ih =>
    simp only [Memory.insert]
    split
    · simp
    · split
      · simp only [List.mem_cons]
        rintro (h | h)
        · exact .inl h
        · exact .inr (.inr h)
      · simp only [List.mem_cons]
        rintro (h | h)
        · exact .inr (.inl h)
        · exact (ih h).imp id .inr

/-- Inserting keeps the canonical form. -/
theorem Memory.wf_insert (m : Memory) (a : Nat) (v : Word) (h : Memory.wf m = true) : Memory.wf (Memory.insert m a v) = true := by
  induction m with
  | nil => rfl
  | cons f m ih =>
    have hf := (Memory.wf_cons f m).1 h
    simp only [Memory.insert]
    split
    case isTrue hlt =>
      refine (Memory.wf_cons (a, v) (f :: m)).2 ⟨fun x hx => ?_, h⟩
      rcases List.mem_cons.1 hx with rfl | hx
      · exact hlt
      · exact Nat.lt_trans hlt (hf.1 x hx)
    case isFalse hlt =>
      split
      case isTrue heq => exact (Memory.wf_cons (a, v) m).2 ⟨heq ▸ hf.1, hf.2⟩
      case isFalse heq =>
        refine (Memory.wf_cons f _).2 ⟨fun x hx => ?_, ih hf.2⟩
        rcases Memory.mem_insert m a v x hx with rfl | hx
        · exact Nat.lt_of_le_of_ne (Nat.not_lt.1 hlt) (Ne.symm heq)
        · exact hf.1 x hx

/-- The canonical form of a memory whose every entry is below a bound, followed by one whose every entry is not. -/
theorem Memory.wf_append (m n : Memory) (b : Nat) (hm : Memory.wf m = true) (hn : Memory.wf n = true)
    (hlo : ∀ e ∈ m, e.1 < b) (hhi : ∀ e ∈ n, b ≤ e.1) : Memory.wf (m ++ n) = true := by
  induction m with
  | nil => exact hn
  | cons f m ih =>
    have hf := (Memory.wf_cons f m).1 hm
    refine (Memory.wf_cons f (m ++ n)).2 ⟨fun x hx => ?_, ih hf.2 (fun e he => hlo e (List.mem_cons_of_mem _ he))⟩
    rcases List.mem_append.1 hx with hx | hx
    · exact hf.1 x hx
    · exact Nat.lt_of_lt_of_le (hlo f List.mem_cons_self) (hhi x hx)

theorem Memory.wf_filter (m : Memory) (p : WordCell → Bool) (h : Memory.wf m = true) : Memory.wf (m.filter p) = true := by
  induction m with
  | nil => rfl
  | cons f m ih =>
    have hf := (Memory.wf_cons f m).1 h
    rw [List.filter_cons]
    split
    · exact (Memory.wf_cons f _).2 ⟨fun x hx => hf.1 x (List.mem_filter.1 hx).1, ih hf.2⟩
    · exact ih hf.2

theorem Memory.mem_blockCells (a : Nat) (vs : List Word) (e : WordCell) :
    e ∈ Memory.blockCells a vs → a ≤ e.1 ∧ e.1 < a + vs.length ∧ e.2 ≠ 0#32 := by
  induction vs generalizing a with
  | nil => simp [Memory.blockCells]
  | cons v vs ih =>
    simp only [Memory.blockCells, List.length_cons]
    intro h
    split at h
    · obtain ⟨h1, h2, h3⟩ := ih (a + 1) h
      exact ⟨by omega, by omega, h3⟩
    case isFalse hv =>
      rcases List.mem_cons.1 h with rfl | h
      · exact ⟨Nat.le_refl _, by simp, hv⟩
      · obtain ⟨h1, h2, h3⟩ := ih (a + 1) h
        exact ⟨by omega, by omega, h3⟩

theorem Memory.wf_blockCells (a : Nat) (vs : List Word) : Memory.wf (Memory.blockCells a vs) = true := by
  induction vs generalizing a with
  | nil => rfl
  | cons v vs ih =>
    simp only [Memory.blockCells]
    split
    · exact ih _
    · exact (Memory.wf_cons _ _).2 ⟨fun x hx => (Memory.mem_blockCells _ _ x hx).1, ih _⟩

/-- Storing a block keeps the canonical form of a row. -/
theorem Memory.wf_storeBlock (row : Memory) (block : List F32) (h : Memory.wf row = true) :
    Memory.wf (Memory.storeBlock row block) = true := by
  refine Memory.wf_append _ _ block.length (Memory.wf_blockCells _ _) (Memory.wf_filter _ _ h) (fun e he => ?_) (fun e he => ?_)
  · have := Memory.mem_blockCells _ _ e he; omega
  · simpa using (List.mem_filter.1 he).2

/-- Storing a block lists no +0.0. -/
theorem Memory.noZero_storeBlock (row : Memory) (block : List F32) (h : Memory.noZero row = true) :
    Memory.noZero (Memory.storeBlock row block) = true := by
  simp only [Memory.noZero, List.all_eq_true, decide_eq_true_eq, Memory.storeBlock, List.mem_append, List.mem_filter] at h ⊢
  rintro e (he | ⟨he, -⟩)
  · exact (Memory.mem_blockCells _ _ e he).2.2
  · exact h e he

/-- Inserting an address below a bound keeps the bound. -/
theorem Memory.below_insert (m : Memory) (a n : Nat) (v : Word) (h : ∀ e ∈ m, e.1 < n) (ha : a < n) :
    ∀ e ∈ Memory.insert m a v, e.1 < n := by
  intro e he
  rcases Memory.mem_insert m a v e he with rfl | he
  · exact ha
  · exact h e he

/-- Storing a block no longer than a bound keeps the bound. -/
theorem Memory.below_storeBlock (row : Memory) (block : List F32) (n : Nat) (h : ∀ e ∈ row, e.1 < n) (hb : block.length ≤ n) :
    ∀ e ∈ Memory.storeBlock row block, e.1 < n := by
  intro e he
  rcases List.mem_append.1 he with he | he
  · have := Memory.mem_blockCells _ _ e he
    omega
  · exact h e (List.mem_filter.1 he).1

/-! ### Read after write -/

/-- A word reads as it was written. -/
@[simp] theorem Memory.lookup_insert_same (m : Memory) (a : Nat) (v : Word) : Memory.lookup (Memory.insert m a v) a = some v := by
  induction m with
  | nil => simp [Memory.insert, Memory.lookup]
  | cons f m ih =>
    simp only [Memory.insert]
    split
    · simp [Memory.lookup]
    · split
      · simp [Memory.lookup]
      case isFalse heq => simp [Memory.lookup, Ne.symm heq, ih]

/-- Every other word reads as before. -/
theorem Memory.lookup_insert_ne (m : Memory) (a b : Nat) (v : Word) (h : b ≠ a) :
    Memory.lookup (Memory.insert m a v) b = Memory.lookup m b := by
  induction m with
  | nil => simp [Memory.insert, Memory.lookup, Ne.symm h]
  | cons f m ih =>
    simp only [Memory.insert]
    split
    · simp [Memory.lookup, Ne.symm h]
    · split
      case isTrue heq =>
        subst heq
        simp [Memory.lookup, Ne.symm h]
      · simp [Memory.lookup, ih]

theorem Memory.lookup_append (m n : Memory) (a : Nat) :
    Memory.lookup (m ++ n) a = (Memory.lookup m a).or (Memory.lookup n a) := by
  induction m with
  | nil => simp [Memory.lookup]
  | cons f m ih =>
    simp only [List.cons_append, Memory.lookup]
    split <;> simp [ih]

theorem Memory.lookup_none (m : Memory) (a : Nat) (h : ∀ e ∈ m, e.1 ≠ a) : Memory.lookup m a = none := by
  induction m with
  | nil => rfl
  | cons f m ih =>
    have hf := h f List.mem_cons_self
    simp only [Memory.lookup, if_neg hf]
    exact ih (fun e he => h e (List.mem_cons_of_mem _ he))

theorem Memory.lookup_filter (m : Memory) (p : WordCell → Bool) (a : Nat) (h : ∀ e, e.1 = a → p e = true) :
    Memory.lookup (m.filter p) a = Memory.lookup m a := by
  induction m with
  | nil => rfl
  | cons f m ih =>
    rw [List.filter_cons]
    by_cases hf : f.1 = a
    · simp [Memory.lookup, hf, h f hf]
    · split <;> simp [Memory.lookup, hf, ih]

theorem Memory.readOut_blockCells (a : Nat) (vs : List Word) (i : Nat) (h : i < vs.length) :
    (Memory.lookup (Memory.blockCells a vs) (a + i)).getD 0#32 = vs.getD i 0#32 := by
  induction vs generalizing a i with
  | nil => simp at h
  | cons v vs ih =>
    have above : ∀ e ∈ Memory.blockCells (a + 1) vs, e.1 ≠ a := fun e he => by
      have := Memory.mem_blockCells _ _ e he; omega
    cases i with
    | zero =>
      simp only [Memory.blockCells, Nat.add_zero, List.getD_cons_zero]
      split
      case isTrue hv => rw [Memory.lookup_none _ _ above, hv]; rfl
      · simp [Memory.lookup]
    | succ i =>
      have hi : i < vs.length := by simpa using h
      have := ih (a + 1) i hi
      simp only [Memory.blockCells, List.getD_cons_succ]
      rw [show a + (i + 1) = a + 1 + i by omega]
      split
      · exact this
      · rw [← this]
        simp only [Memory.lookup]
        rw [if_neg (by omega)]

/-- Within the block, an output row reads the block. -/
theorem Memory.readOut_storeBlock_lt (row : Memory) (block : List F32) (i : Nat) (h : i < block.length) :
    Memory.readOut (Memory.storeBlock row block) i = block.getD i 0#32 := by
  have hblk := Memory.readOut_blockCells 0 block i h
  rw [Nat.zero_add] at hblk
  have htail : Memory.lookup (row.filter (fun e => decide (block.length ≤ e.1))) i = none := by
    refine Memory.lookup_none _ _ (fun e he => ?_)
    have := (List.mem_filter.1 he).2
    simp only [decide_eq_true_eq] at this
    omega
  unfold Memory.readOut Memory.storeBlock
  rw [Memory.lookup_append, htail, ← hblk]
  cases Memory.lookup (Memory.blockCells 0 block) i <;> rfl

/-- Past the block, an output row reads as before. -/
theorem Memory.readOut_storeBlock_ge (row : Memory) (block : List F32) (i : Nat) (h : block.length ≤ i) :
    Memory.readOut (Memory.storeBlock row block) i = Memory.readOut row i := by
  have hhead : Memory.lookup (Memory.blockCells 0 block) i = none := by
    refine Memory.lookup_none _ _ (fun e he => ?_)
    have := Memory.mem_blockCells _ _ e he
    omega
  unfold Memory.readOut Memory.storeBlock
  rw [Memory.lookup_append, hhead, Memory.lookup_filter _ _ _ (fun e he => by simp only [decide_eq_true_eq]; omega)]
  rfl

/-! ### Pad sample memory -/

@[simp] theorem pmRead_pmWrite_same (s : State) (a : Nat) (w : Word) : pmRead (pmWrite a w s) a = w := by
  simp [pmRead, pmWrite]

theorem pmRead_pmWrite_ne (s : State) (a b : Nat) (w : Word) (h : b ≠ a) : pmRead (pmWrite a w s) b = pmRead s b := by
  simp [pmRead, pmWrite, Memory.lookup_insert_ne _ _ _ _ h]

/-- What a word of `PM` reads as depends on the written words and on the reset they belong to, and on nothing else. -/
theorem pmRead_congr (s t : State) (a : Nat) (hm : t.pm = s.pm) (he : t.pmEpoch = s.pmEpoch) : pmRead t a = pmRead s a := by
  simp [pmRead, hm, he]

/-! ### After reset -/

theorem reset_pm_wf : Memory.wf State.reset.pm = true := rfl

theorem reset_out_wf (p : Params) (row : Memory) (h : row ∈ (State.resetWith p).out) :
    Memory.wf row = true ∧ Memory.noZero row = true := by
  obtain ⟨-, rfl⟩ := List.mem_replicate.1 h
  exact ⟨rfl, rfl⟩

end Sys2Proof.Machine
end

