-- ==== Sys2Proof/Laws/State.lean ====
section
/-!
SUPPORT. One lemma per field of `State` and per named update, each true by `rfl`: what the update puts there, or that the field stays.
-/
namespace Sys2Proof.Machine

/-! ### `setVoice` -/

@[simp] theorem setVoice_params (k : Nat) (v : Voice) (s : State) : (setVoice k v s).params = s.params := rfl
@[simp] theorem setVoice_prepared (k : Nat) (v : Voice) (s : State) : (setVoice k v s).prepared = s.prepared := rfl
@[simp] theorem setVoice_fs (k : Nat) (v : Voice) (s : State) : (setVoice k v s).fs = s.fs := rfl
@[simp] theorem setVoice_maxBlock (k : Nat) (v : Voice) (s : State) : (setVoice k v s).maxBlock = s.maxBlock := rfl
@[simp] theorem setVoice_voices (k : Nat) (v : Voice) (s : State) : (setVoice k v s).voices = s.voices.set k v := rfl
@[simp] theorem setVoice_synthNext (k : Nat) (v : Voice) (s : State) : (setVoice k v s).synthNext = s.synthNext := rfl
@[simp] theorem setVoice_pads (k : Nat) (v : Voice) (s : State) : (setVoice k v s).pads = s.pads := rfl
@[simp] theorem setVoice_padVoices (k : Nat) (v : Voice) (s : State) : (setVoice k v s).padVoices = s.padVoices := rfl
@[simp] theorem setVoice_padNext (k : Nat) (v : Voice) (s : State) : (setVoice k v s).padNext = s.padNext := rfl
@[simp] theorem setVoice_flt (k : Nat) (v : Voice) (s : State) : (setVoice k v s).flt = s.flt := rfl
@[simp] theorem setVoice_chain (k : Nat) (v : Voice) (s : State) : (setVoice k v s).chain = s.chain := rfl
@[simp] theorem setVoice_rvs (k : Nat) (v : Voice) (s : State) : (setVoice k v s).rvs = s.rvs := rfl
@[simp] theorem setVoice_regs (k : Nat) (v : Voice) (s : State) : (setVoice k v s).regs = s.regs := rfl
@[simp] theorem setVoice_staging (k : Nat) (v : Voice) (s : State) : (setVoice k v s).staging = s.staging := rfl
@[simp] theorem setVoice_out (k : Nat) (v : Voice) (s : State) : (setVoice k v s).out = s.out := rfl
@[simp] theorem setVoice_outCount (k : Nat) (v : Voice) (s : State) : (setVoice k v s).outCount = s.outCount := rfl
@[simp] theorem setVoice_loadOk0 (k : Nat) (v : Voice) (s : State) : (setVoice k v s).loadOk0 = s.loadOk0 := rfl
@[simp] theorem setVoice_loadOk1 (k : Nat) (v : Voice) (s : State) : (setVoice k v s).loadOk1 = s.loadOk1 := rfl
@[simp] theorem setVoice_err (k : Nat) (v : Voice) (s : State) : (setVoice k v s).err = s.err := rfl
@[simp] theorem setVoice_cq0 (k : Nat) (v : Voice) (s : State) : (setVoice k v s).cq0 = s.cq0 := rfl
@[simp] theorem setVoice_cq1 (k : Nat) (v : Voice) (s : State) : (setVoice k v s).cq1 = s.cq1 := rfl
@[simp] theorem setVoice_rq0 (k : Nat) (v : Voice) (s : State) : (setVoice k v s).rq0 = s.rq0 := rfl
@[simp] theorem setVoice_rq1 (k : Nat) (v : Voice) (s : State) : (setVoice k v s).rq1 = s.rq1 := rfl
@[simp] theorem setVoice_pm (k : Nat) (v : Voice) (s : State) : (setVoice k v s).pm = s.pm := rfl
@[simp] theorem setVoice_pmEpoch (k : Nat) (v : Voice) (s : State) : (setVoice k v s).pmEpoch = s.pmEpoch := rfl
@[simp] theorem setVoice_arbCount (k : Nat) (v : Voice) (s : State) : (setVoice k v s).arbCount = s.arbCount := rfl
@[simp] theorem setVoice_curPort (k : Nat) (v : Voice) (s : State) : (setVoice k v s).curPort = s.curPort := rfl
@[simp] theorem setVoice_curCmd (k : Nat) (v : Voice) (s : State) : (setVoice k v s).curCmd = s.curCmd := rfl

/-! ### `setPad` -/

@[simp] theorem setPad_params (p : Nat) (d : PadSlot) (s : State) : (setPad p d s).params = s.params := rfl
@[simp] theorem setPad_prepared (p : Nat) (d : PadSlot) (s : State) : (setPad p d s).prepared = s.prepared := rfl
@[simp] theorem setPad_fs (p : Nat) (d : PadSlot) (s : State) : (setPad p d s).fs = s.fs := rfl
@[simp] theorem setPad_maxBlock (p : Nat) (d : PadSlot) (s : State) : (setPad p d s).maxBlock = s.maxBlock := rfl
@[simp] theorem setPad_voices (p : Nat) (d : PadSlot) (s : State) : (setPad p d s).voices = s.voices := rfl
@[simp] theorem setPad_synthNext (p : Nat) (d : PadSlot) (s : State) : (setPad p d s).synthNext = s.synthNext := rfl
@[simp] theorem setPad_pads (p : Nat) (d : PadSlot) (s : State) : (setPad p d s).pads = s.pads.set p d := rfl
@[simp] theorem setPad_padVoices (p : Nat) (d : PadSlot) (s : State) : (setPad p d s).padVoices = s.padVoices := rfl
@[simp] theorem setPad_padNext (p : Nat) (d : PadSlot) (s : State) : (setPad p d s).padNext = s.padNext := rfl
@[simp] theorem setPad_flt (p : Nat) (d : PadSlot) (s : State) : (setPad p d s).flt = s.flt := rfl
@[simp] theorem setPad_chain (p : Nat) (d : PadSlot) (s : State) : (setPad p d s).chain = s.chain := rfl
@[simp] theorem setPad_rvs (p : Nat) (d : PadSlot) (s : State) : (setPad p d s).rvs = s.rvs := rfl
@[simp] theorem setPad_regs (p : Nat) (d : PadSlot) (s : State) : (setPad p d s).regs = s.regs := rfl
@[simp] theorem setPad_staging (p : Nat) (d : PadSlot) (s : State) : (setPad p d s).staging = s.staging := rfl
@[simp] theorem setPad_out (p : Nat) (d : PadSlot) (s : State) : (setPad p d s).out = s.out := rfl
@[simp] theorem setPad_outCount (p : Nat) (d : PadSlot) (s : State) : (setPad p d s).outCount = s.outCount := rfl
@[simp] theorem setPad_loadOk0 (p : Nat) (d : PadSlot) (s : State) : (setPad p d s).loadOk0 = s.loadOk0 := rfl
@[simp] theorem setPad_loadOk1 (p : Nat) (d : PadSlot) (s : State) : (setPad p d s).loadOk1 = s.loadOk1 := rfl
@[simp] theorem setPad_err (p : Nat) (d : PadSlot) (s : State) : (setPad p d s).err = s.err := rfl
@[simp] theorem setPad_cq0 (p : Nat) (d : PadSlot) (s : State) : (setPad p d s).cq0 = s.cq0 := rfl
@[simp] theorem setPad_cq1 (p : Nat) (d : PadSlot) (s : State) : (setPad p d s).cq1 = s.cq1 := rfl
@[simp] theorem setPad_rq0 (p : Nat) (d : PadSlot) (s : State) : (setPad p d s).rq0 = s.rq0 := rfl
@[simp] theorem setPad_rq1 (p : Nat) (d : PadSlot) (s : State) : (setPad p d s).rq1 = s.rq1 := rfl
@[simp] theorem setPad_pm (p : Nat) (d : PadSlot) (s : State) : (setPad p d s).pm = s.pm := rfl
@[simp] theorem setPad_pmEpoch (p : Nat) (d : PadSlot) (s : State) : (setPad p d s).pmEpoch = s.pmEpoch := rfl
@[simp] theorem setPad_arbCount (p : Nat) (d : PadSlot) (s : State) : (setPad p d s).arbCount = s.arbCount := rfl
@[simp] theorem setPad_curPort (p : Nat) (d : PadSlot) (s : State) : (setPad p d s).curPort = s.curPort := rfl
@[simp] theorem setPad_curCmd (p : Nat) (d : PadSlot) (s : State) : (setPad p d s).curCmd = s.curCmd := rfl

/-! ### `setPadVoice` -/

@[simp] theorem setPadVoice_params (m : Nat) (v : PadVoice) (s : State) : (setPadVoice m v s).params = s.params := rfl
@[simp] theorem setPadVoice_prepared (m : Nat) (v : PadVoice) (s : State) : (setPadVoice m v s).prepared = s.prepared := rfl
@[simp] theorem setPadVoice_fs (m : Nat) (v : PadVoice) (s : State) : (setPadVoice m v s).fs = s.fs := rfl
@[simp] theorem setPadVoice_maxBlock (m : Nat) (v : PadVoice) (s : State) : (setPadVoice m v s).maxBlock = s.maxBlock := rfl
@[simp] theorem setPadVoice_voices (m : Nat) (v : PadVoice) (s : State) : (setPadVoice m v s).voices = s.voices := rfl
@[simp] theorem setPadVoice_synthNext (m : Nat) (v : PadVoice) (s : State) : (setPadVoice m v s).synthNext = s.synthNext := rfl
@[simp] theorem setPadVoice_pads (m : Nat) (v : PadVoice) (s : State) : (setPadVoice m v s).pads = s.pads := rfl
@[simp] theorem setPadVoice_padVoices (m : Nat) (v : PadVoice) (s : State) : (setPadVoice m v s).padVoices = s.padVoices.set m v := rfl
@[simp] theorem setPadVoice_padNext (m : Nat) (v : PadVoice) (s : State) : (setPadVoice m v s).padNext = s.padNext := rfl
@[simp] theorem setPadVoice_flt (m : Nat) (v : PadVoice) (s : State) : (setPadVoice m v s).flt = s.flt := rfl
@[simp] theorem setPadVoice_chain (m : Nat) (v : PadVoice) (s : State) : (setPadVoice m v s).chain = s.chain := rfl
@[simp] theorem setPadVoice_rvs (m : Nat) (v : PadVoice) (s : State) : (setPadVoice m v s).rvs = s.rvs := rfl
@[simp] theorem setPadVoice_regs (m : Nat) (v : PadVoice) (s : State) : (setPadVoice m v s).regs = s.regs := rfl
@[simp] theorem setPadVoice_staging (m : Nat) (v : PadVoice) (s : State) : (setPadVoice m v s).staging = s.staging := rfl
@[simp] theorem setPadVoice_out (m : Nat) (v : PadVoice) (s : State) : (setPadVoice m v s).out = s.out := rfl
@[simp] theorem setPadVoice_outCount (m : Nat) (v : PadVoice) (s : State) : (setPadVoice m v s).outCount = s.outCount := rfl
@[simp] theorem setPadVoice_loadOk0 (m : Nat) (v : PadVoice) (s : State) : (setPadVoice m v s).loadOk0 = s.loadOk0 := rfl
@[simp] theorem setPadVoice_loadOk1 (m : Nat) (v : PadVoice) (s : State) : (setPadVoice m v s).loadOk1 = s.loadOk1 := rfl
@[simp] theorem setPadVoice_err (m : Nat) (v : PadVoice) (s : State) : (setPadVoice m v s).err = s.err := rfl
@[simp] theorem setPadVoice_cq0 (m : Nat) (v : PadVoice) (s : State) : (setPadVoice m v s).cq0 = s.cq0 := rfl
@[simp] theorem setPadVoice_cq1 (m : Nat) (v : PadVoice) (s : State) : (setPadVoice m v s).cq1 = s.cq1 := rfl
@[simp] theorem setPadVoice_rq0 (m : Nat) (v : PadVoice) (s : State) : (setPadVoice m v s).rq0 = s.rq0 := rfl
@[simp] theorem setPadVoice_rq1 (m : Nat) (v : PadVoice) (s : State) : (setPadVoice m v s).rq1 = s.rq1 := rfl
@[simp] theorem setPadVoice_pm (m : Nat) (v : PadVoice) (s : State) : (setPadVoice m v s).pm = s.pm := rfl
@[simp] theorem setPadVoice_pmEpoch (m : Nat) (v : PadVoice) (s : State) : (setPadVoice m v s).pmEpoch = s.pmEpoch := rfl
@[simp] theorem setPadVoice_arbCount (m : Nat) (v : PadVoice) (s : State) : (setPadVoice m v s).arbCount = s.arbCount := rfl
@[simp] theorem setPadVoice_curPort (m : Nat) (v : PadVoice) (s : State) : (setPadVoice m v s).curPort = s.curPort := rfl
@[simp] theorem setPadVoice_curCmd (m : Nat) (v : PadVoice) (s : State) : (setPadVoice m v s).curCmd = s.curCmd := rfl

/-! ### `pmWrite` -/

@[simp] theorem pmWrite_params (a : Nat) (w : Word) (s : State) : (pmWrite a w s).params = s.params := rfl
@[simp] theorem pmWrite_prepared (a : Nat) (w : Word) (s : State) : (pmWrite a w s).prepared = s.prepared := rfl
@[simp] theorem pmWrite_fs (a : Nat) (w : Word) (s : State) : (pmWrite a w s).fs = s.fs := rfl
@[simp] theorem pmWrite_maxBlock (a : Nat) (w : Word) (s : State) : (pmWrite a w s).maxBlock = s.maxBlock := rfl
@[simp] theorem pmWrite_voices (a : Nat) (w : Word) (s : State) : (pmWrite a w s).voices = s.voices := rfl
@[simp] theorem pmWrite_synthNext (a : Nat) (w : Word) (s : State) : (pmWrite a w s).synthNext = s.synthNext := rfl
@[simp] theorem pmWrite_pads (a : Nat) (w : Word) (s : State) : (pmWrite a w s).pads = s.pads := rfl
@[simp] theorem pmWrite_padVoices (a : Nat) (w : Word) (s : State) : (pmWrite a w s).padVoices = s.padVoices := rfl
@[simp] theorem pmWrite_padNext (a : Nat) (w : Word) (s : State) : (pmWrite a w s).padNext = s.padNext := rfl
@[simp] theorem pmWrite_flt (a : Nat) (w : Word) (s : State) : (pmWrite a w s).flt = s.flt := rfl
@[simp] theorem pmWrite_chain (a : Nat) (w : Word) (s : State) : (pmWrite a w s).chain = s.chain := rfl
@[simp] theorem pmWrite_rvs (a : Nat) (w : Word) (s : State) : (pmWrite a w s).rvs = s.rvs := rfl
@[simp] theorem pmWrite_regs (a : Nat) (w : Word) (s : State) : (pmWrite a w s).regs = s.regs := rfl
@[simp] theorem pmWrite_staging (a : Nat) (w : Word) (s : State) : (pmWrite a w s).staging = s.staging := rfl
@[simp] theorem pmWrite_out (a : Nat) (w : Word) (s : State) : (pmWrite a w s).out = s.out := rfl
@[simp] theorem pmWrite_outCount (a : Nat) (w : Word) (s : State) : (pmWrite a w s).outCount = s.outCount := rfl
@[simp] theorem pmWrite_loadOk0 (a : Nat) (w : Word) (s : State) : (pmWrite a w s).loadOk0 = s.loadOk0 := rfl
@[simp] theorem pmWrite_loadOk1 (a : Nat) (w : Word) (s : State) : (pmWrite a w s).loadOk1 = s.loadOk1 := rfl
@[simp] theorem pmWrite_err (a : Nat) (w : Word) (s : State) : (pmWrite a w s).err = s.err := rfl
@[simp] theorem pmWrite_cq0 (a : Nat) (w : Word) (s : State) : (pmWrite a w s).cq0 = s.cq0 := rfl
@[simp] theorem pmWrite_cq1 (a : Nat) (w : Word) (s : State) : (pmWrite a w s).cq1 = s.cq1 := rfl
@[simp] theorem pmWrite_rq0 (a : Nat) (w : Word) (s : State) : (pmWrite a w s).rq0 = s.rq0 := rfl
@[simp] theorem pmWrite_rq1 (a : Nat) (w : Word) (s : State) : (pmWrite a w s).rq1 = s.rq1 := rfl
@[simp] theorem pmWrite_pm (a : Nat) (w : Word) (s : State) : (pmWrite a w s).pm = Memory.insert s.pm a w := rfl
@[simp] theorem pmWrite_pmEpoch (a : Nat) (w : Word) (s : State) : (pmWrite a w s).pmEpoch = s.pmEpoch := rfl
@[simp] theorem pmWrite_arbCount (a : Nat) (w : Word) (s : State) : (pmWrite a w s).arbCount = s.arbCount := rfl
@[simp] theorem pmWrite_curPort (a : Nat) (w : Word) (s : State) : (pmWrite a w s).curPort = s.curPort := rfl
@[simp] theorem pmWrite_curCmd (a : Nat) (w : Word) (s : State) : (pmWrite a w s).curCmd = s.curCmd := rfl

/-! ### `raiseFault` -/

@[simp] theorem raiseFault_params (code : FaultCode) (s : State) : (raiseFault code s).params = s.params := rfl
@[simp] theorem raiseFault_prepared (code : FaultCode) (s : State) : (raiseFault code s).prepared = s.prepared := rfl
@[simp] theorem raiseFault_fs (code : FaultCode) (s : State) : (raiseFault code s).fs = s.fs := rfl
@[simp] theorem raiseFault_maxBlock (code : FaultCode) (s : State) : (raiseFault code s).maxBlock = s.maxBlock := rfl
@[simp] theorem raiseFault_voices (code : FaultCode) (s : State) : (raiseFault code s).voices = s.voices := rfl
@[simp] theorem raiseFault_synthNext (code : FaultCode) (s : State) : (raiseFault code s).synthNext = s.synthNext := rfl
@[simp] theorem raiseFault_pads (code : FaultCode) (s : State) : (raiseFault code s).pads = s.pads := rfl
@[simp] theorem raiseFault_padVoices (code : FaultCode) (s : State) : (raiseFault code s).padVoices = s.padVoices := rfl
@[simp] theorem raiseFault_padNext (code : FaultCode) (s : State) : (raiseFault code s).padNext = s.padNext := rfl
@[simp] theorem raiseFault_flt (code : FaultCode) (s : State) : (raiseFault code s).flt = s.flt := rfl
@[simp] theorem raiseFault_chain (code : FaultCode) (s : State) : (raiseFault code s).chain = s.chain := rfl
@[simp] theorem raiseFault_rvs (code : FaultCode) (s : State) : (raiseFault code s).rvs = s.rvs := rfl
@[simp] theorem raiseFault_regs (code : FaultCode) (s : State) : (raiseFault code s).regs = s.regs := rfl
@[simp] theorem raiseFault_staging (code : FaultCode) (s : State) : (raiseFault code s).staging = s.staging := rfl
@[simp] theorem raiseFault_out (code : FaultCode) (s : State) : (raiseFault code s).out = s.out := rfl
@[simp] theorem raiseFault_outCount (code : FaultCode) (s : State) : (raiseFault code s).outCount = s.outCount := rfl
@[simp] theorem raiseFault_loadOk0 (code : FaultCode) (s : State) : (raiseFault code s).loadOk0 = s.loadOk0 := rfl
@[simp] theorem raiseFault_loadOk1 (code : FaultCode) (s : State) : (raiseFault code s).loadOk1 = s.loadOk1 := rfl
@[simp] theorem raiseFault_err (code : FaultCode) (s : State) : (raiseFault code s).err = errorEntry code s.curPort s.curCmd s.err := rfl
@[simp] theorem raiseFault_cq0 (code : FaultCode) (s : State) : (raiseFault code s).cq0 = s.cq0 := rfl
@[simp] theorem raiseFault_cq1 (code : FaultCode) (s : State) : (raiseFault code s).cq1 = s.cq1 := rfl
@[simp] theorem raiseFault_rq0 (code : FaultCode) (s : State) : (raiseFault code s).rq0 = s.rq0 := rfl
@[simp] theorem raiseFault_rq1 (code : FaultCode) (s : State) : (raiseFault code s).rq1 = s.rq1 := rfl
@[simp] theorem raiseFault_pm (code : FaultCode) (s : State) : (raiseFault code s).pm = s.pm := rfl
@[simp] theorem raiseFault_pmEpoch (code : FaultCode) (s : State) : (raiseFault code s).pmEpoch = s.pmEpoch := rfl
@[simp] theorem raiseFault_arbCount (code : FaultCode) (s : State) : (raiseFault code s).arbCount = s.arbCount := rfl
@[simp] theorem raiseFault_curPort (code : FaultCode) (s : State) : (raiseFault code s).curPort = s.curPort := rfl
@[simp] theorem raiseFault_curCmd (code : FaultCode) (s : State) : (raiseFault code s).curCmd = s.curCmd := rfl

/-! ### `pushResponse` -/

@[simp] theorem pushResponse_params (port : Port) (w : Word) (s : State) : (pushResponse port w s).params = s.params := rfl
@[simp] theorem pushResponse_prepared (port : Port) (w : Word) (s : State) : (pushResponse port w s).prepared = s.prepared := rfl
@[simp] theorem pushResponse_fs (port : Port) (w : Word) (s : State) : (pushResponse port w s).fs = s.fs := rfl
@[simp] theorem pushResponse_maxBlock (port : Port) (w : Word) (s : State) : (pushResponse port w s).maxBlock = s.maxBlock := rfl
@[simp] theorem pushResponse_voices (port : Port) (w : Word) (s : State) : (pushResponse port w s).voices = s.voices := rfl
@[simp] theorem pushResponse_synthNext (port : Port) (w : Word) (s : State) : (pushResponse port w s).synthNext = s.synthNext := rfl
@[simp] theorem pushResponse_pads (port : Port) (w : Word) (s : State) : (pushResponse port w s).pads = s.pads := rfl
@[simp] theorem pushResponse_padVoices (port : Port) (w : Word) (s : State) : (pushResponse port w s).padVoices = s.padVoices := rfl
@[simp] theorem pushResponse_padNext (port : Port) (w : Word) (s : State) : (pushResponse port w s).padNext = s.padNext := rfl
@[simp] theorem pushResponse_flt (port : Port) (w : Word) (s : State) : (pushResponse port w s).flt = s.flt := rfl
@[simp] theorem pushResponse_chain (port : Port) (w : Word) (s : State) : (pushResponse port w s).chain = s.chain := rfl
@[simp] theorem pushResponse_rvs (port : Port) (w : Word) (s : State) : (pushResponse port w s).rvs = s.rvs := rfl
@[simp] theorem pushResponse_regs (port : Port) (w : Word) (s : State) : (pushResponse port w s).regs = s.regs := rfl
@[simp] theorem pushResponse_staging (port : Port) (w : Word) (s : State) : (pushResponse port w s).staging = s.staging := rfl
@[simp] theorem pushResponse_out (port : Port) (w : Word) (s : State) : (pushResponse port w s).out = s.out := rfl
@[simp] theorem pushResponse_outCount (port : Port) (w : Word) (s : State) : (pushResponse port w s).outCount = s.outCount := rfl
@[simp] theorem pushResponse_loadOk0 (port : Port) (w : Word) (s : State) : (pushResponse port w s).loadOk0 = s.loadOk0 := rfl
@[simp] theorem pushResponse_loadOk1 (port : Port) (w : Word) (s : State) : (pushResponse port w s).loadOk1 = s.loadOk1 := rfl
@[simp] theorem pushResponse_err (port : Port) (w : Word) (s : State) : (pushResponse port w s).err = s.err := rfl
@[simp] theorem pushResponse_cq0 (port : Port) (w : Word) (s : State) : (pushResponse port w s).cq0 = s.cq0 := rfl
@[simp] theorem pushResponse_cq1 (port : Port) (w : Word) (s : State) : (pushResponse port w s).cq1 = s.cq1 := rfl
@[simp] theorem pushResponse_rq0 (port : Port) (w : Word) (s : State) : (pushResponse port w s).rq0 = if port = .p0 then s.rq0 ++ [w] else s.rq0 := rfl
@[simp] theorem pushResponse_rq1 (port : Port) (w : Word) (s : State) : (pushResponse port w s).rq1 = if port = .p1 then s.rq1 ++ [w] else s.rq1 := rfl
@[simp] theorem pushResponse_pm (port : Port) (w : Word) (s : State) : (pushResponse port w s).pm = s.pm := rfl
@[simp] theorem pushResponse_pmEpoch (port : Port) (w : Word) (s : State) : (pushResponse port w s).pmEpoch = s.pmEpoch := rfl
@[simp] theorem pushResponse_arbCount (port : Port) (w : Word) (s : State) : (pushResponse port w s).arbCount = s.arbCount := rfl
@[simp] theorem pushResponse_curPort (port : Port) (w : Word) (s : State) : (pushResponse port w s).curPort = s.curPort := rfl
@[simp] theorem pushResponse_curCmd (port : Port) (w : Word) (s : State) : (pushResponse port w s).curCmd = s.curCmd := rfl

/-! ### `popCommand` -/

@[simp] theorem popCommand_params (port : Port) (s : State) : (popCommand port s).params = s.params := rfl
@[simp] theorem popCommand_prepared (port : Port) (s : State) : (popCommand port s).prepared = s.prepared := rfl
@[simp] theorem popCommand_fs (port : Port) (s : State) : (popCommand port s).fs = s.fs := rfl
@[simp] theorem popCommand_maxBlock (port : Port) (s : State) : (popCommand port s).maxBlock = s.maxBlock := rfl
@[simp] theorem popCommand_voices (port : Port) (s : State) : (popCommand port s).voices = s.voices := rfl
@[simp] theorem popCommand_synthNext (port : Port) (s : State) : (popCommand port s).synthNext = s.synthNext := rfl
@[simp] theorem popCommand_pads (port : Port) (s : State) : (popCommand port s).pads = s.pads := rfl
@[simp] theorem popCommand_padVoices (port : Port) (s : State) : (popCommand port s).padVoices = s.padVoices := rfl
@[simp] theorem popCommand_padNext (port : Port) (s : State) : (popCommand port s).padNext = s.padNext := rfl
@[simp] theorem popCommand_flt (port : Port) (s : State) : (popCommand port s).flt = s.flt := rfl
@[simp] theorem popCommand_chain (port : Port) (s : State) : (popCommand port s).chain = s.chain := rfl
@[simp] theorem popCommand_rvs (port : Port) (s : State) : (popCommand port s).rvs = s.rvs := rfl
@[simp] theorem popCommand_regs (port : Port) (s : State) : (popCommand port s).regs = s.regs := rfl
@[simp] theorem popCommand_staging (port : Port) (s : State) : (popCommand port s).staging = s.staging := rfl
@[simp] theorem popCommand_out (port : Port) (s : State) : (popCommand port s).out = s.out := rfl
@[simp] theorem popCommand_outCount (port : Port) (s : State) : (popCommand port s).outCount = s.outCount := rfl
@[simp] theorem popCommand_loadOk0 (port : Port) (s : State) : (popCommand port s).loadOk0 = s.loadOk0 := rfl
@[simp] theorem popCommand_loadOk1 (port : Port) (s : State) : (popCommand port s).loadOk1 = s.loadOk1 := rfl
@[simp] theorem popCommand_err (port : Port) (s : State) : (popCommand port s).err = s.err := rfl
@[simp] theorem popCommand_cq0 (port : Port) (s : State) : (popCommand port s).cq0 = if port = .p0 then s.cq0.tail else s.cq0 := rfl
@[simp] theorem popCommand_cq1 (port : Port) (s : State) : (popCommand port s).cq1 = if port = .p1 then s.cq1.tail else s.cq1 := rfl
@[simp] theorem popCommand_rq0 (port : Port) (s : State) : (popCommand port s).rq0 = s.rq0 := rfl
@[simp] theorem popCommand_rq1 (port : Port) (s : State) : (popCommand port s).rq1 = s.rq1 := rfl
@[simp] theorem popCommand_pm (port : Port) (s : State) : (popCommand port s).pm = s.pm := rfl
@[simp] theorem popCommand_pmEpoch (port : Port) (s : State) : (popCommand port s).pmEpoch = s.pmEpoch := rfl
@[simp] theorem popCommand_arbCount (port : Port) (s : State) : (popCommand port s).arbCount = if queuesContend s then s.arbCount + 1 else s.arbCount := rfl
@[simp] theorem popCommand_curPort (port : Port) (s : State) : (popCommand port s).curPort = port := rfl
@[simp] theorem popCommand_curCmd (port : Port) (s : State) : (popCommand port s).curCmd = (if port = .p0 then s.cq0 else s.cq1).headD 0#64 := rfl

/-! ### `retire` -/

@[simp] theorem retire_params (s : State) : (retire s).params = s.params := rfl
@[simp] theorem retire_prepared (s : State) : (retire s).prepared = s.prepared := rfl
@[simp] theorem retire_fs (s : State) : (retire s).fs = s.fs := rfl
@[simp] theorem retire_maxBlock (s : State) : (retire s).maxBlock = s.maxBlock := rfl
@[simp] theorem retire_voices (s : State) : (retire s).voices = s.voices := rfl
@[simp] theorem retire_synthNext (s : State) : (retire s).synthNext = s.synthNext := rfl
@[simp] theorem retire_pads (s : State) : (retire s).pads = s.pads := rfl
@[simp] theorem retire_padVoices (s : State) : (retire s).padVoices = s.padVoices := rfl
@[simp] theorem retire_padNext (s : State) : (retire s).padNext = s.padNext := rfl
@[simp] theorem retire_flt (s : State) : (retire s).flt = s.flt := rfl
@[simp] theorem retire_chain (s : State) : (retire s).chain = s.chain := rfl
@[simp] theorem retire_rvs (s : State) : (retire s).rvs = s.rvs := rfl
@[simp] theorem retire_regs (s : State) : (retire s).regs = s.regs := rfl
@[simp] theorem retire_staging (s : State) : (retire s).staging = s.staging := rfl
@[simp] theorem retire_out (s : State) : (retire s).out = s.out := rfl
@[simp] theorem retire_outCount (s : State) : (retire s).outCount = s.outCount := rfl
@[simp] theorem retire_loadOk0 (s : State) : (retire s).loadOk0 = s.loadOk0 := rfl
@[simp] theorem retire_loadOk1 (s : State) : (retire s).loadOk1 = s.loadOk1 := rfl
@[simp] theorem retire_err (s : State) : (retire s).err = s.err := rfl
@[simp] theorem retire_cq0 (s : State) : (retire s).cq0 = s.cq0 := rfl
@[simp] theorem retire_cq1 (s : State) : (retire s).cq1 = s.cq1 := rfl
@[simp] theorem retire_rq0 (s : State) : (retire s).rq0 = s.rq0 := rfl
@[simp] theorem retire_rq1 (s : State) : (retire s).rq1 = s.rq1 := rfl
@[simp] theorem retire_pm (s : State) : (retire s).pm = s.pm := rfl
@[simp] theorem retire_pmEpoch (s : State) : (retire s).pmEpoch = s.pmEpoch := rfl
@[simp] theorem retire_arbCount (s : State) : (retire s).arbCount = s.arbCount := rfl
@[simp] theorem retire_curPort (s : State) : (retire s).curPort = .p0 := rfl
@[simp] theorem retire_curCmd (s : State) : (retire s).curCmd = 0#64 := rfl

/-! ### `hostPush` -/

@[simp] theorem hostPush_params (port : Port) (w : Cmd) (s : State) : (hostPush port w s).params = s.params := rfl
@[simp] theorem hostPush_prepared (port : Port) (w : Cmd) (s : State) : (hostPush port w s).prepared = s.prepared := rfl
@[simp] theorem hostPush_fs (port : Port) (w : Cmd) (s : State) : (hostPush port w s).fs = s.fs := rfl
@[simp] theorem hostPush_maxBlock (port : Port) (w : Cmd) (s : State) : (hostPush port w s).maxBlock = s.maxBlock := rfl
@[simp] theorem hostPush_voices (port : Port) (w : Cmd) (s : State) : (hostPush port w s).voices = s.voices := rfl
@[simp] theorem hostPush_synthNext (port : Port) (w : Cmd) (s : State) : (hostPush port w s).synthNext = s.synthNext := rfl
@[simp] theorem hostPush_pads (port : Port) (w : Cmd) (s : State) : (hostPush port w s).pads = s.pads := rfl
@[simp] theorem hostPush_padVoices (port : Port) (w : Cmd) (s : State) : (hostPush port w s).padVoices = s.padVoices := rfl
@[simp] theorem hostPush_padNext (port : Port) (w : Cmd) (s : State) : (hostPush port w s).padNext = s.padNext := rfl
@[simp] theorem hostPush_flt (port : Port) (w : Cmd) (s : State) : (hostPush port w s).flt = s.flt := rfl
@[simp] theorem hostPush_chain (port : Port) (w : Cmd) (s : State) : (hostPush port w s).chain = s.chain := rfl
@[simp] theorem hostPush_rvs (port : Port) (w : Cmd) (s : State) : (hostPush port w s).rvs = s.rvs := rfl
@[simp] theorem hostPush_regs (port : Port) (w : Cmd) (s : State) : (hostPush port w s).regs = s.regs := rfl
@[simp] theorem hostPush_staging (port : Port) (w : Cmd) (s : State) : (hostPush port w s).staging = s.staging := rfl
@[simp] theorem hostPush_out (port : Port) (w : Cmd) (s : State) : (hostPush port w s).out = s.out := rfl
@[simp] theorem hostPush_outCount (port : Port) (w : Cmd) (s : State) : (hostPush port w s).outCount = s.outCount := rfl
@[simp] theorem hostPush_loadOk0 (port : Port) (w : Cmd) (s : State) : (hostPush port w s).loadOk0 = s.loadOk0 := rfl
@[simp] theorem hostPush_loadOk1 (port : Port) (w : Cmd) (s : State) : (hostPush port w s).loadOk1 = s.loadOk1 := rfl
@[simp] theorem hostPush_err (port : Port) (w : Cmd) (s : State) : (hostPush port w s).err = s.err := rfl
@[simp] theorem hostPush_cq0 (port : Port) (w : Cmd) (s : State) : (hostPush port w s).cq0 = if port = .p0 then s.cq0 ++ [w] else s.cq0 := rfl
@[simp] theorem hostPush_cq1 (port : Port) (w : Cmd) (s : State) : (hostPush port w s).cq1 = if port = .p1 then s.cq1 ++ [w] else s.cq1 := rfl
@[simp] theorem hostPush_rq0 (port : Port) (w : Cmd) (s : State) : (hostPush port w s).rq0 = s.rq0 := rfl
@[simp] theorem hostPush_rq1 (port : Port) (w : Cmd) (s : State) : (hostPush port w s).rq1 = s.rq1 := rfl
@[simp] theorem hostPush_pm (port : Port) (w : Cmd) (s : State) : (hostPush port w s).pm = s.pm := rfl
@[simp] theorem hostPush_pmEpoch (port : Port) (w : Cmd) (s : State) : (hostPush port w s).pmEpoch = s.pmEpoch := rfl
@[simp] theorem hostPush_arbCount (port : Port) (w : Cmd) (s : State) : (hostPush port w s).arbCount = s.arbCount := rfl
@[simp] theorem hostPush_curPort (port : Port) (w : Cmd) (s : State) : (hostPush port w s).curPort = s.curPort := rfl
@[simp] theorem hostPush_curCmd (port : Port) (w : Cmd) (s : State) : (hostPush port w s).curCmd = s.curCmd := rfl

/-! ### `setLoadOk` -/

@[simp] theorem setLoadOk_params (port : Port) (ok : Bool) (s : State) : (setLoadOk port ok s).params = s.params := rfl
@[simp] theorem setLoadOk_prepared (port : Port) (ok : Bool) (s : State) : (setLoadOk port ok s).prepared = s.prepared := rfl
@[simp] theorem setLoadOk_fs (port : Port) (ok : Bool) (s : State) : (setLoadOk port ok s).fs = s.fs := rfl
@[simp] theorem setLoadOk_maxBlock (port : Port) (ok : Bool) (s : State) : (setLoadOk port ok s).maxBlock = s.maxBlock := rfl
@[simp] theorem setLoadOk_voices (port : Port) (ok : Bool) (s : State) : (setLoadOk port ok s).voices = s.voices := rfl
@[simp] theorem setLoadOk_synthNext (port : Port) (ok : Bool) (s : State) : (setLoadOk port ok s).synthNext = s.synthNext := rfl
@[simp] theorem setLoadOk_pads (port : Port) (ok : Bool) (s : State) : (setLoadOk port ok s).pads = s.pads := rfl
@[simp] theorem setLoadOk_padVoices (port : Port) (ok : Bool) (s : State) : (setLoadOk port ok s).padVoices = s.padVoices := rfl
@[simp] theorem setLoadOk_padNext (port : Port) (ok : Bool) (s : State) : (setLoadOk port ok s).padNext = s.padNext := rfl
@[simp] theorem setLoadOk_flt (port : Port) (ok : Bool) (s : State) : (setLoadOk port ok s).flt = s.flt := rfl
@[simp] theorem setLoadOk_chain (port : Port) (ok : Bool) (s : State) : (setLoadOk port ok s).chain = s.chain := rfl
@[simp] theorem setLoadOk_rvs (port : Port) (ok : Bool) (s : State) : (setLoadOk port ok s).rvs = s.rvs := rfl
@[simp] theorem setLoadOk_regs (port : Port) (ok : Bool) (s : State) : (setLoadOk port ok s).regs = s.regs := rfl
@[simp] theorem setLoadOk_staging (port : Port) (ok : Bool) (s : State) : (setLoadOk port ok s).staging = s.staging := rfl
@[simp] theorem setLoadOk_out (port : Port) (ok : Bool) (s : State) : (setLoadOk port ok s).out = s.out := rfl
@[simp] theorem setLoadOk_outCount (port : Port) (ok : Bool) (s : State) : (setLoadOk port ok s).outCount = s.outCount := rfl
@[simp] theorem setLoadOk_loadOk0 (port : Port) (ok : Bool) (s : State) : (setLoadOk port ok s).loadOk0 = if port = .p0 then ok else s.loadOk0 := rfl
@[simp] theorem setLoadOk_loadOk1 (port : Port) (ok : Bool) (s : State) : (setLoadOk port ok s).loadOk1 = if port = .p1 then ok else s.loadOk1 := rfl
@[simp] theorem setLoadOk_err (port : Port) (ok : Bool) (s : State) : (setLoadOk port ok s).err = s.err := rfl
@[simp] theorem setLoadOk_cq0 (port : Port) (ok : Bool) (s : State) : (setLoadOk port ok s).cq0 = s.cq0 := rfl
@[simp] theorem setLoadOk_cq1 (port : Port) (ok : Bool) (s : State) : (setLoadOk port ok s).cq1 = s.cq1 := rfl
@[simp] theorem setLoadOk_rq0 (port : Port) (ok : Bool) (s : State) : (setLoadOk port ok s).rq0 = s.rq0 := rfl
@[simp] theorem setLoadOk_rq1 (port : Port) (ok : Bool) (s : State) : (setLoadOk port ok s).rq1 = s.rq1 := rfl
@[simp] theorem setLoadOk_pm (port : Port) (ok : Bool) (s : State) : (setLoadOk port ok s).pm = s.pm := rfl
@[simp] theorem setLoadOk_pmEpoch (port : Port) (ok : Bool) (s : State) : (setLoadOk port ok s).pmEpoch = s.pmEpoch := rfl
@[simp] theorem setLoadOk_arbCount (port : Port) (ok : Bool) (s : State) : (setLoadOk port ok s).arbCount = s.arbCount := rfl
@[simp] theorem setLoadOk_curPort (port : Port) (ok : Bool) (s : State) : (setLoadOk port ok s).curPort = s.curPort := rfl
@[simp] theorem setLoadOk_curCmd (port : Port) (ok : Bool) (s : State) : (setLoadOk port ok s).curCmd = s.curCmd := rfl

/-! ### `advancePadNext` -/

@[simp] theorem advancePadNext_params (s : State) : (advancePadNext s).params = s.params := rfl
@[simp] theorem advancePadNext_prepared (s : State) : (advancePadNext s).prepared = s.prepared := rfl
@[simp] theorem advancePadNext_fs (s : State) : (advancePadNext s).fs = s.fs := rfl
@[simp] theorem advancePadNext_maxBlock (s : State) : (advancePadNext s).maxBlock = s.maxBlock := rfl
@[simp] theorem advancePadNext_voices (s : State) : (advancePadNext s).voices = s.voices := rfl
@[simp] theorem advancePadNext_synthNext (s : State) : (advancePadNext s).synthNext = s.synthNext := rfl
@[simp] theorem advancePadNext_pads (s : State) : (advancePadNext s).pads = s.pads := rfl
@[simp] theorem advancePadNext_padVoices (s : State) : (advancePadNext s).padVoices = s.padVoices := rfl
@[simp] theorem advancePadNext_padNext (s : State) : (advancePadNext s).padNext = BitVec.ofNat 5 ((s.padNext.toNat + 1) % s.params.pv) := rfl
@[simp] theorem advancePadNext_flt (s : State) : (advancePadNext s).flt = s.flt := rfl
@[simp] theorem advancePadNext_chain (s : State) : (advancePadNext s).chain = s.chain := rfl
@[simp] theorem advancePadNext_rvs (s : State) : (advancePadNext s).rvs = s.rvs := rfl
@[simp] theorem advancePadNext_regs (s : State) : (advancePadNext s).regs = s.regs := rfl
@[simp] theorem advancePadNext_staging (s : State) : (advancePadNext s).staging = s.staging := rfl
@[simp] theorem advancePadNext_out (s : State) : (advancePadNext s).out = s.out := rfl
@[simp] theorem advancePadNext_outCount (s : State) : (advancePadNext s).outCount = s.outCount := rfl
@[simp] theorem advancePadNext_loadOk0 (s : State) : (advancePadNext s).loadOk0 = s.loadOk0 := rfl
@[simp] theorem advancePadNext_loadOk1 (s : State) : (advancePadNext s).loadOk1 = s.loadOk1 := rfl
@[simp] theorem advancePadNext_err (s : State) : (advancePadNext s).err = s.err := rfl
@[simp] theorem advancePadNext_cq0 (s : State) : (advancePadNext s).cq0 = s.cq0 := rfl
@[simp] theorem advancePadNext_cq1 (s : State) : (advancePadNext s).cq1 = s.cq1 := rfl
@[simp] theorem advancePadNext_rq0 (s : State) : (advancePadNext s).rq0 = s.rq0 := rfl
@[simp] theorem advancePadNext_rq1 (s : State) : (advancePadNext s).rq1 = s.rq1 := rfl
@[simp] theorem advancePadNext_pm (s : State) : (advancePadNext s).pm = s.pm := rfl
@[simp] theorem advancePadNext_pmEpoch (s : State) : (advancePadNext s).pmEpoch = s.pmEpoch := rfl
@[simp] theorem advancePadNext_arbCount (s : State) : (advancePadNext s).arbCount = s.arbCount := rfl
@[simp] theorem advancePadNext_curPort (s : State) : (advancePadNext s).curPort = s.curPort := rfl
@[simp] theorem advancePadNext_curCmd (s : State) : (advancePadNext s).curCmd = s.curCmd := rfl

/-! ### `padInvalidate` -/

@[simp] theorem padInvalidate_params (p : Nat) (s : State) : (padInvalidate p s).params = s.params := rfl
@[simp] theorem padInvalidate_prepared (p : Nat) (s : State) : (padInvalidate p s).prepared = s.prepared := rfl
@[simp] theorem padInvalidate_fs (p : Nat) (s : State) : (padInvalidate p s).fs = s.fs := rfl
@[simp] theorem padInvalidate_maxBlock (p : Nat) (s : State) : (padInvalidate p s).maxBlock = s.maxBlock := rfl
@[simp] theorem padInvalidate_voices (p : Nat) (s : State) : (padInvalidate p s).voices = s.voices := rfl
@[simp] theorem padInvalidate_synthNext (p : Nat) (s : State) : (padInvalidate p s).synthNext = s.synthNext := rfl
@[simp] theorem padInvalidate_pads (p : Nat) (s : State) : (padInvalidate p s).pads = s.pads := rfl
@[simp] theorem padInvalidate_padVoices (p : Nat) (s : State) : (padInvalidate p s).padVoices = s.padVoices.map (padVoiceInvalidate p) := rfl
@[simp] theorem padInvalidate_padNext (p : Nat) (s : State) : (padInvalidate p s).padNext = s.padNext := rfl
@[simp] theorem padInvalidate_flt (p : Nat) (s : State) : (padInvalidate p s).flt = s.flt := rfl
@[simp] theorem padInvalidate_chain (p : Nat) (s : State) : (padInvalidate p s).chain = s.chain := rfl
@[simp] theorem padInvalidate_rvs (p : Nat) (s : State) : (padInvalidate p s).rvs = s.rvs := rfl
@[simp] theorem padInvalidate_regs (p : Nat) (s : State) : (padInvalidate p s).regs = s.regs := rfl
@[simp] theorem padInvalidate_staging (p : Nat) (s : State) : (padInvalidate p s).staging = s.staging := rfl
@[simp] theorem padInvalidate_out (p : Nat) (s : State) : (padInvalidate p s).out = s.out := rfl
@[simp] theorem padInvalidate_outCount (p : Nat) (s : State) : (padInvalidate p s).outCount = s.outCount := rfl
@[simp] theorem padInvalidate_loadOk0 (p : Nat) (s : State) : (padInvalidate p s).loadOk0 = s.loadOk0 := rfl
@[simp] theorem padInvalidate_loadOk1 (p : Nat) (s : State) : (padInvalidate p s).loadOk1 = s.loadOk1 := rfl
@[simp] theorem padInvalidate_err (p : Nat) (s : State) : (padInvalidate p s).err = s.err := rfl
@[simp] theorem padInvalidate_cq0 (p : Nat) (s : State) : (padInvalidate p s).cq0 = s.cq0 := rfl
@[simp] theorem padInvalidate_cq1 (p : Nat) (s : State) : (padInvalidate p s).cq1 = s.cq1 := rfl
@[simp] theorem padInvalidate_rq0 (p : Nat) (s : State) : (padInvalidate p s).rq0 = s.rq0 := rfl
@[simp] theorem padInvalidate_rq1 (p : Nat) (s : State) : (padInvalidate p s).rq1 = s.rq1 := rfl
@[simp] theorem padInvalidate_pm (p : Nat) (s : State) : (padInvalidate p s).pm = s.pm := rfl
@[simp] theorem padInvalidate_pmEpoch (p : Nat) (s : State) : (padInvalidate p s).pmEpoch = s.pmEpoch := rfl
@[simp] theorem padInvalidate_arbCount (p : Nat) (s : State) : (padInvalidate p s).arbCount = s.arbCount := rfl
@[simp] theorem padInvalidate_curPort (p : Nat) (s : State) : (padInvalidate p s).curPort = s.curPort := rfl
@[simp] theorem padInvalidate_curCmd (p : Nat) (s : State) : (padInvalidate p s).curCmd = s.curCmd := rfl

/-! ### `advanceSynthNext` -/

@[simp] theorem advanceSynthNext_params (k : Nat) (s : State) : (advanceSynthNext k s).params = s.params := rfl
@[simp] theorem advanceSynthNext_prepared (k : Nat) (s : State) : (advanceSynthNext k s).prepared = s.prepared := rfl
@[simp] theorem advanceSynthNext_fs (k : Nat) (s : State) : (advanceSynthNext k s).fs = s.fs := rfl
@[simp] theorem advanceSynthNext_maxBlock (k : Nat) (s : State) : (advanceSynthNext k s).maxBlock = s.maxBlock := rfl
@[simp] theorem advanceSynthNext_voices (k : Nat) (s : State) : (advanceSynthNext k s).voices = s.voices := rfl
@[simp] theorem advanceSynthNext_synthNext (k : Nat) (s : State) : (advanceSynthNext k s).synthNext = BitVec.ofNat 3 ((k + 1) % Config.nv) := rfl
@[simp] theorem advanceSynthNext_pads (k : Nat) (s : State) : (advanceSynthNext k s).pads = s.pads := rfl
@[simp] theorem advanceSynthNext_padVoices (k : Nat) (s : State) : (advanceSynthNext k s).padVoices = s.padVoices := rfl
@[simp] theorem advanceSynthNext_padNext (k : Nat) (s : State) : (advanceSynthNext k s).padNext = s.padNext := rfl
@[simp] theorem advanceSynthNext_flt (k : Nat) (s : State) : (advanceSynthNext k s).flt = s.flt := rfl
@[simp] theorem advanceSynthNext_chain (k : Nat) (s : State) : (advanceSynthNext k s).chain = s.chain := rfl
@[simp] theorem advanceSynthNext_rvs (k : Nat) (s : State) : (advanceSynthNext k s).rvs = s.rvs := rfl
@[simp] theorem advanceSynthNext_regs (k : Nat) (s : State) : (advanceSynthNext k s).regs = s.regs := rfl
@[simp] theorem advanceSynthNext_staging (k : Nat) (s : State) : (advanceSynthNext k s).staging = s.staging := rfl
@[simp] theorem advanceSynthNext_out (k : Nat) (s : State) : (advanceSynthNext k s).out = s.out := rfl
@[simp] theorem advanceSynthNext_outCount (k : Nat) (s : State) : (advanceSynthNext k s).outCount = s.outCount := rfl
@[simp] theorem advanceSynthNext_loadOk0 (k : Nat) (s : State) : (advanceSynthNext k s).loadOk0 = s.loadOk0 := rfl
@[simp] theorem advanceSynthNext_loadOk1 (k : Nat) (s : State) : (advanceSynthNext k s).loadOk1 = s.loadOk1 := rfl
@[simp] theorem advanceSynthNext_err (k : Nat) (s : State) : (advanceSynthNext k s).err = s.err := rfl
@[simp] theorem advanceSynthNext_cq0 (k : Nat) (s : State) : (advanceSynthNext k s).cq0 = s.cq0 := rfl
@[simp] theorem advanceSynthNext_cq1 (k : Nat) (s : State) : (advanceSynthNext k s).cq1 = s.cq1 := rfl
@[simp] theorem advanceSynthNext_rq0 (k : Nat) (s : State) : (advanceSynthNext k s).rq0 = s.rq0 := rfl
@[simp] theorem advanceSynthNext_rq1 (k : Nat) (s : State) : (advanceSynthNext k s).rq1 = s.rq1 := rfl
@[simp] theorem advanceSynthNext_pm (k : Nat) (s : State) : (advanceSynthNext k s).pm = s.pm := rfl
@[simp] theorem advanceSynthNext_pmEpoch (k : Nat) (s : State) : (advanceSynthNext k s).pmEpoch = s.pmEpoch := rfl
@[simp] theorem advanceSynthNext_arbCount (k : Nat) (s : State) : (advanceSynthNext k s).arbCount = s.arbCount := rfl
@[simp] theorem advanceSynthNext_curPort (k : Nat) (s : State) : (advanceSynthNext k s).curPort = s.curPort := rfl
@[simp] theorem advanceSynthNext_curCmd (k : Nat) (s : State) : (advanceSynthNext k s).curCmd = s.curCmd := rfl

/-! ### `synthStart` -/

@[simp] theorem synthStart_params (k note : Nat) (vel : F32) (s : State) : (synthStart k note vel s).params = s.params := rfl
@[simp] theorem synthStart_prepared (k note : Nat) (vel : F32) (s : State) : (synthStart k note vel s).prepared = s.prepared := rfl
@[simp] theorem synthStart_fs (k note : Nat) (vel : F32) (s : State) : (synthStart k note vel s).fs = s.fs := rfl
@[simp] theorem synthStart_maxBlock (k note : Nat) (vel : F32) (s : State) : (synthStart k note vel s).maxBlock = s.maxBlock := rfl
@[simp] theorem synthStart_voices (k note : Nat) (vel : F32) (s : State) : (synthStart k note vel s).voices = s.voices.set k (voiceStart s.params s.regs s.fs note vel (s.voice k)) := rfl
@[simp] theorem synthStart_synthNext (k note : Nat) (vel : F32) (s : State) : (synthStart k note vel s).synthNext = s.synthNext := rfl
@[simp] theorem synthStart_pads (k note : Nat) (vel : F32) (s : State) : (synthStart k note vel s).pads = s.pads := rfl
@[simp] theorem synthStart_padVoices (k note : Nat) (vel : F32) (s : State) : (synthStart k note vel s).padVoices = s.padVoices := rfl
@[simp] theorem synthStart_padNext (k note : Nat) (vel : F32) (s : State) : (synthStart k note vel s).padNext = s.padNext := rfl
@[simp] theorem synthStart_flt (k note : Nat) (vel : F32) (s : State) : (synthStart k note vel s).flt = s.flt := rfl
@[simp] theorem synthStart_chain (k note : Nat) (vel : F32) (s : State) : (synthStart k note vel s).chain = s.chain := rfl
@[simp] theorem synthStart_rvs (k note : Nat) (vel : F32) (s : State) : (synthStart k note vel s).rvs = s.rvs := rfl
@[simp] theorem synthStart_regs (k note : Nat) (vel : F32) (s : State) : (synthStart k note vel s).regs = s.regs := rfl
@[simp] theorem synthStart_staging (k note : Nat) (vel : F32) (s : State) : (synthStart k note vel s).staging = s.staging := rfl
@[simp] theorem synthStart_out (k note : Nat) (vel : F32) (s : State) : (synthStart k note vel s).out = s.out := rfl
@[simp] theorem synthStart_outCount (k note : Nat) (vel : F32) (s : State) : (synthStart k note vel s).outCount = s.outCount := rfl
@[simp] theorem synthStart_loadOk0 (k note : Nat) (vel : F32) (s : State) : (synthStart k note vel s).loadOk0 = s.loadOk0 := rfl
@[simp] theorem synthStart_loadOk1 (k note : Nat) (vel : F32) (s : State) : (synthStart k note vel s).loadOk1 = s.loadOk1 := rfl
@[simp] theorem synthStart_err (k note : Nat) (vel : F32) (s : State) : (synthStart k note vel s).err = s.err := rfl
@[simp] theorem synthStart_cq0 (k note : Nat) (vel : F32) (s : State) : (synthStart k note vel s).cq0 = s.cq0 := rfl
@[simp] theorem synthStart_cq1 (k note : Nat) (vel : F32) (s : State) : (synthStart k note vel s).cq1 = s.cq1 := rfl
@[simp] theorem synthStart_rq0 (k note : Nat) (vel : F32) (s : State) : (synthStart k note vel s).rq0 = s.rq0 := rfl
@[simp] theorem synthStart_rq1 (k note : Nat) (vel : F32) (s : State) : (synthStart k note vel s).rq1 = s.rq1 := rfl
@[simp] theorem synthStart_pm (k note : Nat) (vel : F32) (s : State) : (synthStart k note vel s).pm = s.pm := rfl
@[simp] theorem synthStart_pmEpoch (k note : Nat) (vel : F32) (s : State) : (synthStart k note vel s).pmEpoch = s.pmEpoch := rfl
@[simp] theorem synthStart_arbCount (k note : Nat) (vel : F32) (s : State) : (synthStart k note vel s).arbCount = s.arbCount := rfl
@[simp] theorem synthStart_curPort (k note : Nat) (vel : F32) (s : State) : (synthStart k note vel s).curPort = s.curPort := rfl
@[simp] theorem synthStart_curCmd (k note : Nat) (vel : F32) (s : State) : (synthStart k note vel s).curCmd = s.curCmd := rfl

/-! ### `synthStop` -/

@[simp] theorem synthStop_params (note : Nat) (tail : Bool) (s : State) : (synthStop note tail s).params = s.params := rfl
@[simp] theorem synthStop_prepared (note : Nat) (tail : Bool) (s : State) : (synthStop note tail s).prepared = s.prepared := rfl
@[simp] theorem synthStop_fs (note : Nat) (tail : Bool) (s : State) : (synthStop note tail s).fs = s.fs := rfl
@[simp] theorem synthStop_maxBlock (note : Nat) (tail : Bool) (s : State) : (synthStop note tail s).maxBlock = s.maxBlock := rfl
@[simp] theorem synthStop_voices (note : Nat) (tail : Bool) (s : State) : (synthStop note tail s).voices = s.voices.map (fun v => if v.active && decide (v.note.toNat = note) then voiceStop s.fs tail v else v) := rfl
@[simp] theorem synthStop_synthNext (note : Nat) (tail : Bool) (s : State) : (synthStop note tail s).synthNext = s.synthNext := rfl
@[simp] theorem synthStop_pads (note : Nat) (tail : Bool) (s : State) : (synthStop note tail s).pads = s.pads := rfl
@[simp] theorem synthStop_padVoices (note : Nat) (tail : Bool) (s : State) : (synthStop note tail s).padVoices = s.padVoices := rfl
@[simp] theorem synthStop_padNext (note : Nat) (tail : Bool) (s : State) : (synthStop note tail s).padNext = s.padNext := rfl
@[simp] theorem synthStop_flt (note : Nat) (tail : Bool) (s : State) : (synthStop note tail s).flt = s.flt := rfl
@[simp] theorem synthStop_chain (note : Nat) (tail : Bool) (s : State) : (synthStop note tail s).chain = s.chain := rfl
@[simp] theorem synthStop_rvs (note : Nat) (tail : Bool) (s : State) : (synthStop note tail s).rvs = s.rvs := rfl
@[simp] theorem synthStop_regs (note : Nat) (tail : Bool) (s : State) : (synthStop note tail s).regs = s.regs := rfl
@[simp] theorem synthStop_staging (note : Nat) (tail : Bool) (s : State) : (synthStop note tail s).staging = s.staging := rfl
@[simp] theorem synthStop_out (note : Nat) (tail : Bool) (s : State) : (synthStop note tail s).out = s.out := rfl
@[simp] theorem synthStop_outCount (note : Nat) (tail : Bool) (s : State) : (synthStop note tail s).outCount = s.outCount := rfl
@[simp] theorem synthStop_loadOk0 (note : Nat) (tail : Bool) (s : State) : (synthStop note tail s).loadOk0 = s.loadOk0 := rfl
@[simp] theorem synthStop_loadOk1 (note : Nat) (tail : Bool) (s : State) : (synthStop note tail s).loadOk1 = s.loadOk1 := rfl
@[simp] theorem synthStop_err (note : Nat) (tail : Bool) (s : State) : (synthStop note tail s).err = s.err := rfl
@[simp] theorem synthStop_cq0 (note : Nat) (tail : Bool) (s : State) : (synthStop note tail s).cq0 = s.cq0 := rfl
@[simp] theorem synthStop_cq1 (note : Nat) (tail : Bool) (s : State) : (synthStop note tail s).cq1 = s.cq1 := rfl
@[simp] theorem synthStop_rq0 (note : Nat) (tail : Bool) (s : State) : (synthStop note tail s).rq0 = s.rq0 := rfl
@[simp] theorem synthStop_rq1 (note : Nat) (tail : Bool) (s : State) : (synthStop note tail s).rq1 = s.rq1 := rfl
@[simp] theorem synthStop_pm (note : Nat) (tail : Bool) (s : State) : (synthStop note tail s).pm = s.pm := rfl
@[simp] theorem synthStop_pmEpoch (note : Nat) (tail : Bool) (s : State) : (synthStop note tail s).pmEpoch = s.pmEpoch := rfl
@[simp] theorem synthStop_arbCount (note : Nat) (tail : Bool) (s : State) : (synthStop note tail s).arbCount = s.arbCount := rfl
@[simp] theorem synthStop_curPort (note : Nat) (tail : Bool) (s : State) : (synthStop note tail s).curPort = s.curPort := rfl
@[simp] theorem synthStop_curCmd (note : Nat) (tail : Bool) (s : State) : (synthStop note tail s).curCmd = s.curCmd := rfl

/-! ### `engineClear` -/

@[simp] theorem engineClear_params (s : State) : (engineClear s).params = s.params := rfl
@[simp] theorem engineClear_prepared (s : State) : (engineClear s).prepared = s.prepared := rfl
@[simp] theorem engineClear_fs (s : State) : (engineClear s).fs = s.fs := rfl
@[simp] theorem engineClear_maxBlock (s : State) : (engineClear s).maxBlock = s.maxBlock := rfl
@[simp] theorem engineClear_voices (s : State) : (engineClear s).voices = List.replicate Config.nv Voice.zero := rfl
@[simp] theorem engineClear_synthNext (s : State) : (engineClear s).synthNext = 0#3 := rfl
@[simp] theorem engineClear_pads (s : State) : (engineClear s).pads = s.pads := rfl
@[simp] theorem engineClear_padVoices (s : State) : (engineClear s).padVoices = List.replicate s.params.pv PadVoice.idle := rfl
@[simp] theorem engineClear_padNext (s : State) : (engineClear s).padNext = 0#5 := rfl
@[simp] theorem engineClear_flt (s : State) : (engineClear s).flt = List.replicate s.params.nch Biquad.zero := rfl
@[simp] theorem engineClear_chain (s : State) : (engineClear s).chain = s.chain := rfl
@[simp] theorem engineClear_rvs (s : State) : (engineClear s).rvs = rvsInitOf s.params := rfl
@[simp] theorem engineClear_regs (s : State) : (engineClear s).regs = s.regs := rfl
@[simp] theorem engineClear_staging (s : State) : (engineClear s).staging = s.staging := rfl
@[simp] theorem engineClear_out (s : State) : (engineClear s).out = s.out := rfl
@[simp] theorem engineClear_outCount (s : State) : (engineClear s).outCount = s.outCount := rfl
@[simp] theorem engineClear_loadOk0 (s : State) : (engineClear s).loadOk0 = s.loadOk0 := rfl
@[simp] theorem engineClear_loadOk1 (s : State) : (engineClear s).loadOk1 = s.loadOk1 := rfl
@[simp] theorem engineClear_err (s : State) : (engineClear s).err = s.err := rfl
@[simp] theorem engineClear_cq0 (s : State) : (engineClear s).cq0 = s.cq0 := rfl
@[simp] theorem engineClear_cq1 (s : State) : (engineClear s).cq1 = s.cq1 := rfl
@[simp] theorem engineClear_rq0 (s : State) : (engineClear s).rq0 = s.rq0 := rfl
@[simp] theorem engineClear_rq1 (s : State) : (engineClear s).rq1 = s.rq1 := rfl
@[simp] theorem engineClear_pm (s : State) : (engineClear s).pm = s.pm := rfl
@[simp] theorem engineClear_pmEpoch (s : State) : (engineClear s).pmEpoch = s.pmEpoch := rfl
@[simp] theorem engineClear_arbCount (s : State) : (engineClear s).arbCount = s.arbCount := rfl
@[simp] theorem engineClear_curPort (s : State) : (engineClear s).curPort = s.curPort := rfl
@[simp] theorem engineClear_curCmd (s : State) : (engineClear s).curCmd = s.curCmd := rfl

/-! ### `configure` -/

@[simp] theorem configure_params (n : Nat) (rate : F32) (s : State) : (configure n rate s).params = s.params := rfl
@[simp] theorem configure_prepared (n : Nat) (rate : F32) (s : State) : (configure n rate s).prepared = true := rfl
@[simp] theorem configure_fs (n : Nat) (rate : F32) (s : State) : (configure n rate s).fs = rate := rfl
@[simp] theorem configure_maxBlock (n : Nat) (rate : F32) (s : State) : (configure n rate s).maxBlock = BitVec.ofNat 13 n := rfl
@[simp] theorem configure_voices (n : Nat) (rate : F32) (s : State) : (configure n rate s).voices = s.voices := rfl
@[simp] theorem configure_synthNext (n : Nat) (rate : F32) (s : State) : (configure n rate s).synthNext = s.synthNext := rfl
@[simp] theorem configure_pads (n : Nat) (rate : F32) (s : State) : (configure n rate s).pads = s.pads := rfl
@[simp] theorem configure_padVoices (n : Nat) (rate : F32) (s : State) : (configure n rate s).padVoices = s.padVoices := rfl
@[simp] theorem configure_padNext (n : Nat) (rate : F32) (s : State) : (configure n rate s).padNext = s.padNext := rfl
@[simp] theorem configure_flt (n : Nat) (rate : F32) (s : State) : (configure n rate s).flt = s.flt := rfl
@[simp] theorem configure_chain (n : Nat) (rate : F32) (s : State) : (configure n rate s).chain = s.chain := rfl
@[simp] theorem configure_rvs (n : Nat) (rate : F32) (s : State) : (configure n rate s).rvs = s.rvs := rfl
@[simp] theorem configure_regs (n : Nat) (rate : F32) (s : State) : (configure n rate s).regs = s.regs := rfl
@[simp] theorem configure_staging (n : Nat) (rate : F32) (s : State) : (configure n rate s).staging = s.staging := rfl
@[simp] theorem configure_out (n : Nat) (rate : F32) (s : State) : (configure n rate s).out = s.out := rfl
@[simp] theorem configure_outCount (n : Nat) (rate : F32) (s : State) : (configure n rate s).outCount = s.outCount := rfl
@[simp] theorem configure_loadOk0 (n : Nat) (rate : F32) (s : State) : (configure n rate s).loadOk0 = s.loadOk0 := rfl
@[simp] theorem configure_loadOk1 (n : Nat) (rate : F32) (s : State) : (configure n rate s).loadOk1 = s.loadOk1 := rfl
@[simp] theorem configure_err (n : Nat) (rate : F32) (s : State) : (configure n rate s).err = s.err := rfl
@[simp] theorem configure_cq0 (n : Nat) (rate : F32) (s : State) : (configure n rate s).cq0 = s.cq0 := rfl
@[simp] theorem configure_cq1 (n : Nat) (rate : F32) (s : State) : (configure n rate s).cq1 = s.cq1 := rfl
@[simp] theorem configure_rq0 (n : Nat) (rate : F32) (s : State) : (configure n rate s).rq0 = s.rq0 := rfl
@[simp] theorem configure_rq1 (n : Nat) (rate : F32) (s : State) : (configure n rate s).rq1 = s.rq1 := rfl
@[simp] theorem configure_pm (n : Nat) (rate : F32) (s : State) : (configure n rate s).pm = s.pm := rfl
@[simp] theorem configure_pmEpoch (n : Nat) (rate : F32) (s : State) : (configure n rate s).pmEpoch = s.pmEpoch := rfl
@[simp] theorem configure_arbCount (n : Nat) (rate : F32) (s : State) : (configure n rate s).arbCount = s.arbCount := rfl
@[simp] theorem configure_curPort (n : Nat) (rate : F32) (s : State) : (configure n rate s).curPort = s.curPort := rfl
@[simp] theorem configure_curCmd (n : Nat) (rate : F32) (s : State) : (configure n rate s).curCmd = s.curCmd := rfl

/-! ### `advancePmAddr` -/

@[simp] theorem advancePmAddr_params (s : State) : (advancePmAddr s).params = s.params := rfl
@[simp] theorem advancePmAddr_prepared (s : State) : (advancePmAddr s).prepared = s.prepared := rfl
@[simp] theorem advancePmAddr_fs (s : State) : (advancePmAddr s).fs = s.fs := rfl
@[simp] theorem advancePmAddr_maxBlock (s : State) : (advancePmAddr s).maxBlock = s.maxBlock := rfl
@[simp] theorem advancePmAddr_voices (s : State) : (advancePmAddr s).voices = s.voices := rfl
@[simp] theorem advancePmAddr_synthNext (s : State) : (advancePmAddr s).synthNext = s.synthNext := rfl
@[simp] theorem advancePmAddr_pads (s : State) : (advancePmAddr s).pads = s.pads := rfl
@[simp] theorem advancePmAddr_padVoices (s : State) : (advancePmAddr s).padVoices = s.padVoices := rfl
@[simp] theorem advancePmAddr_padNext (s : State) : (advancePmAddr s).padNext = s.padNext := rfl
@[simp] theorem advancePmAddr_flt (s : State) : (advancePmAddr s).flt = s.flt := rfl
@[simp] theorem advancePmAddr_chain (s : State) : (advancePmAddr s).chain = s.chain := rfl
@[simp] theorem advancePmAddr_rvs (s : State) : (advancePmAddr s).rvs = s.rvs := rfl
@[simp] theorem advancePmAddr_regs (s : State) : (advancePmAddr s).regs = s.regs := rfl
@[simp] theorem advancePmAddr_staging (s : State) : (advancePmAddr s).staging = { s.staging with pmAddr := s.staging.pmAddr + 1#32 } := rfl
@[simp] theorem advancePmAddr_out (s : State) : (advancePmAddr s).out = s.out := rfl
@[simp] theorem advancePmAddr_outCount (s : State) : (advancePmAddr s).outCount = s.outCount := rfl
@[simp] theorem advancePmAddr_loadOk0 (s : State) : (advancePmAddr s).loadOk0 = s.loadOk0 := rfl
@[simp] theorem advancePmAddr_loadOk1 (s : State) : (advancePmAddr s).loadOk1 = s.loadOk1 := rfl
@[simp] theorem advancePmAddr_err (s : State) : (advancePmAddr s).err = s.err := rfl
@[simp] theorem advancePmAddr_cq0 (s : State) : (advancePmAddr s).cq0 = s.cq0 := rfl
@[simp] theorem advancePmAddr_cq1 (s : State) : (advancePmAddr s).cq1 = s.cq1 := rfl
@[simp] theorem advancePmAddr_rq0 (s : State) : (advancePmAddr s).rq0 = s.rq0 := rfl
@[simp] theorem advancePmAddr_rq1 (s : State) : (advancePmAddr s).rq1 = s.rq1 := rfl
@[simp] theorem advancePmAddr_pm (s : State) : (advancePmAddr s).pm = s.pm := rfl
@[simp] theorem advancePmAddr_pmEpoch (s : State) : (advancePmAddr s).pmEpoch = s.pmEpoch := rfl
@[simp] theorem advancePmAddr_arbCount (s : State) : (advancePmAddr s).arbCount = s.arbCount := rfl
@[simp] theorem advancePmAddr_curPort (s : State) : (advancePmAddr s).curPort = s.curPort := rfl
@[simp] theorem advancePmAddr_curCmd (s : State) : (advancePmAddr s).curCmd = s.curCmd := rfl

/-! ### `setStaging` -/

@[simp] theorem setStaging_params (g : Staging) (s : State) : (setStaging g s).params = s.params := rfl
@[simp] theorem setStaging_prepared (g : Staging) (s : State) : (setStaging g s).prepared = s.prepared := rfl
@[simp] theorem setStaging_fs (g : Staging) (s : State) : (setStaging g s).fs = s.fs := rfl
@[simp] theorem setStaging_maxBlock (g : Staging) (s : State) : (setStaging g s).maxBlock = s.maxBlock := rfl
@[simp] theorem setStaging_voices (g : Staging) (s : State) : (setStaging g s).voices = s.voices := rfl
@[simp] theorem setStaging_synthNext (g : Staging) (s : State) : (setStaging g s).synthNext = s.synthNext := rfl
@[simp] theorem setStaging_pads (g : Staging) (s : State) : (setStaging g s).pads = s.pads := rfl
@[simp] theorem setStaging_padVoices (g : Staging) (s : State) : (setStaging g s).padVoices = s.padVoices := rfl
@[simp] theorem setStaging_padNext (g : Staging) (s : State) : (setStaging g s).padNext = s.padNext := rfl
@[simp] theorem setStaging_flt (g : Staging) (s : State) : (setStaging g s).flt = s.flt := rfl
@[simp] theorem setStaging_chain (g : Staging) (s : State) : (setStaging g s).chain = s.chain := rfl
@[simp] theorem setStaging_rvs (g : Staging) (s : State) : (setStaging g s).rvs = s.rvs := rfl
@[simp] theorem setStaging_regs (g : Staging) (s : State) : (setStaging g s).regs = s.regs := rfl
@[simp] theorem setStaging_staging (g : Staging) (s : State) : (setStaging g s).staging = g := rfl
@[simp] theorem setStaging_out (g : Staging) (s : State) : (setStaging g s).out = s.out := rfl
@[simp] theorem setStaging_outCount (g : Staging) (s : State) : (setStaging g s).outCount = s.outCount := rfl
@[simp] theorem setStaging_loadOk0 (g : Staging) (s : State) : (setStaging g s).loadOk0 = s.loadOk0 := rfl
@[simp] theorem setStaging_loadOk1 (g : Staging) (s : State) : (setStaging g s).loadOk1 = s.loadOk1 := rfl
@[simp] theorem setStaging_err (g : Staging) (s : State) : (setStaging g s).err = s.err := rfl
@[simp] theorem setStaging_cq0 (g : Staging) (s : State) : (setStaging g s).cq0 = s.cq0 := rfl
@[simp] theorem setStaging_cq1 (g : Staging) (s : State) : (setStaging g s).cq1 = s.cq1 := rfl
@[simp] theorem setStaging_rq0 (g : Staging) (s : State) : (setStaging g s).rq0 = s.rq0 := rfl
@[simp] theorem setStaging_rq1 (g : Staging) (s : State) : (setStaging g s).rq1 = s.rq1 := rfl
@[simp] theorem setStaging_pm (g : Staging) (s : State) : (setStaging g s).pm = s.pm := rfl
@[simp] theorem setStaging_pmEpoch (g : Staging) (s : State) : (setStaging g s).pmEpoch = s.pmEpoch := rfl
@[simp] theorem setStaging_arbCount (g : Staging) (s : State) : (setStaging g s).arbCount = s.arbCount := rfl
@[simp] theorem setStaging_curPort (g : Staging) (s : State) : (setStaging g s).curPort = s.curPort := rfl
@[simp] theorem setStaging_curCmd (g : Staging) (s : State) : (setStaging g s).curCmd = s.curCmd := rfl

/-! ### `setParam` -/

@[simp] theorem setParam_params (r : ParamReg) (v : F32) (s : State) : (setParam r v s).params = s.params := rfl
@[simp] theorem setParam_prepared (r : ParamReg) (v : F32) (s : State) : (setParam r v s).prepared = s.prepared := rfl
@[simp] theorem setParam_fs (r : ParamReg) (v : F32) (s : State) : (setParam r v s).fs = s.fs := rfl
@[simp] theorem setParam_maxBlock (r : ParamReg) (v : F32) (s : State) : (setParam r v s).maxBlock = s.maxBlock := rfl
@[simp] theorem setParam_voices (r : ParamReg) (v : F32) (s : State) : (setParam r v s).voices = s.voices := rfl
@[simp] theorem setParam_synthNext (r : ParamReg) (v : F32) (s : State) : (setParam r v s).synthNext = s.synthNext := rfl
@[simp] theorem setParam_pads (r : ParamReg) (v : F32) (s : State) : (setParam r v s).pads = s.pads := rfl
@[simp] theorem setParam_padVoices (r : ParamReg) (v : F32) (s : State) : (setParam r v s).padVoices = s.padVoices := rfl
@[simp] theorem setParam_padNext (r : ParamReg) (v : F32) (s : State) : (setParam r v s).padNext = s.padNext := rfl
@[simp] theorem setParam_flt (r : ParamReg) (v : F32) (s : State) : (setParam r v s).flt = s.flt := rfl
@[simp] theorem setParam_chain (r : ParamReg) (v : F32) (s : State) : (setParam r v s).chain = s.chain := rfl
@[simp] theorem setParam_rvs (r : ParamReg) (v : F32) (s : State) : (setParam r v s).rvs = s.rvs := rfl
@[simp] theorem setParam_regs (r : ParamReg) (v : F32) (s : State) : (setParam r v s).regs = r.write v s.regs := rfl
@[simp] theorem setParam_staging (r : ParamReg) (v : F32) (s : State) : (setParam r v s).staging = s.staging := rfl
@[simp] theorem setParam_out (r : ParamReg) (v : F32) (s : State) : (setParam r v s).out = s.out := rfl
@[simp] theorem setParam_outCount (r : ParamReg) (v : F32) (s : State) : (setParam r v s).outCount = s.outCount := rfl
@[simp] theorem setParam_loadOk0 (r : ParamReg) (v : F32) (s : State) : (setParam r v s).loadOk0 = s.loadOk0 := rfl
@[simp] theorem setParam_loadOk1 (r : ParamReg) (v : F32) (s : State) : (setParam r v s).loadOk1 = s.loadOk1 := rfl
@[simp] theorem setParam_err (r : ParamReg) (v : F32) (s : State) : (setParam r v s).err = s.err := rfl
@[simp] theorem setParam_cq0 (r : ParamReg) (v : F32) (s : State) : (setParam r v s).cq0 = s.cq0 := rfl
@[simp] theorem setParam_cq1 (r : ParamReg) (v : F32) (s : State) : (setParam r v s).cq1 = s.cq1 := rfl
@[simp] theorem setParam_rq0 (r : ParamReg) (v : F32) (s : State) : (setParam r v s).rq0 = s.rq0 := rfl
@[simp] theorem setParam_rq1 (r : ParamReg) (v : F32) (s : State) : (setParam r v s).rq1 = s.rq1 := rfl
@[simp] theorem setParam_pm (r : ParamReg) (v : F32) (s : State) : (setParam r v s).pm = s.pm := rfl
@[simp] theorem setParam_pmEpoch (r : ParamReg) (v : F32) (s : State) : (setParam r v s).pmEpoch = s.pmEpoch := rfl
@[simp] theorem setParam_arbCount (r : ParamReg) (v : F32) (s : State) : (setParam r v s).arbCount = s.arbCount := rfl
@[simp] theorem setParam_curPort (r : ParamReg) (v : F32) (s : State) : (setParam r v s).curPort = s.curPort := rfl
@[simp] theorem setParam_curCmd (r : ParamReg) (v : F32) (s : State) : (setParam r v s).curCmd = s.curCmd := rfl

/-! ### `renderBlock` -/

@[simp] theorem renderBlock_params (s : State) (n : Nat) : (renderBlock s n).params = s.params := rfl
@[simp] theorem renderBlock_prepared (s : State) (n : Nat) : (renderBlock s n).prepared = s.prepared := rfl
@[simp] theorem renderBlock_fs (s : State) (n : Nat) : (renderBlock s n).fs = s.fs := rfl
@[simp] theorem renderBlock_maxBlock (s : State) (n : Nat) : (renderBlock s n).maxBlock = s.maxBlock := rfl
@[simp] theorem renderBlock_voices (s : State) (n : Nat) : (renderBlock s n).voices = (renderSynth s n).1 := rfl
@[simp] theorem renderBlock_synthNext (s : State) (n : Nat) : (renderBlock s n).synthNext = s.synthNext := rfl
@[simp] theorem renderBlock_pads (s : State) (n : Nat) : (renderBlock s n).pads = s.pads := rfl
@[simp] theorem renderBlock_padVoices (s : State) (n : Nat) : (renderBlock s n).padVoices = (renderPads s n).1 := rfl
@[simp] theorem renderBlock_padNext (s : State) (n : Nat) : (renderBlock s n).padNext = s.padNext := rfl
@[simp] theorem renderBlock_flt (s : State) (n : Nat) : (renderBlock s n).flt = filterState s.params.nch (renderChain s).coefs s.flt (renderWidth s n) := rfl
@[simp] theorem renderBlock_chain (s : State) (n : Nat) : (renderBlock s n).chain = renderChain s := rfl
@[simp] theorem renderBlock_rvs (s : State) (n : Nat) : (renderBlock s n).rvs = (renderReverb s n).1 := rfl
@[simp] theorem renderBlock_regs (s : State) (n : Nat) : (renderBlock s n).regs = s.regs := rfl
@[simp] theorem renderBlock_staging (s : State) (n : Nat) : (renderBlock s n).staging = s.staging := rfl
@[simp] theorem renderBlock_out (s : State) (n : Nat) : (renderBlock s n).out = (List.range s.params.nch).map (fun c => Memory.storeBlock (s.out.getD c []) ((renderOut s n).getD c [])) := rfl
@[simp] theorem renderBlock_outCount (s : State) (n : Nat) : (renderBlock s n).outCount = BitVec.ofNat 13 n := rfl
@[simp] theorem renderBlock_loadOk0 (s : State) (n : Nat) : (renderBlock s n).loadOk0 = s.loadOk0 := rfl
@[simp] theorem renderBlock_loadOk1 (s : State) (n : Nat) : (renderBlock s n).loadOk1 = s.loadOk1 := rfl
@[simp] theorem renderBlock_err (s : State) (n : Nat) : (renderBlock s n).err = s.err := rfl
@[simp] theorem renderBlock_cq0 (s : State) (n : Nat) : (renderBlock s n).cq0 = s.cq0 := rfl
@[simp] theorem renderBlock_cq1 (s : State) (n : Nat) : (renderBlock s n).cq1 = s.cq1 := rfl
@[simp] theorem renderBlock_rq0 (s : State) (n : Nat) : (renderBlock s n).rq0 = s.rq0 := rfl
@[simp] theorem renderBlock_rq1 (s : State) (n : Nat) : (renderBlock s n).rq1 = s.rq1 := rfl
@[simp] theorem renderBlock_pm (s : State) (n : Nat) : (renderBlock s n).pm = s.pm := rfl
@[simp] theorem renderBlock_pmEpoch (s : State) (n : Nat) : (renderBlock s n).pmEpoch = s.pmEpoch := rfl
@[simp] theorem renderBlock_arbCount (s : State) (n : Nat) : (renderBlock s n).arbCount = s.arbCount := rfl
@[simp] theorem renderBlock_curPort (s : State) (n : Nat) : (renderBlock s n).curPort = s.curPort := rfl
@[simp] theorem renderBlock_curCmd (s : State) (n : Nat) : (renderBlock s n).curCmd = s.curCmd := rfl

end Sys2Proof.Machine
end

