-- ==== Sys2Proof/Laws/Ops.lean ====
section
/-!
SUPPORT. For each shared operation and each meaning, one lemma that says everything it can do: what a prover cites instead of
unfolding it.
-/
namespace Sys2Proof.Machine

/-! ### Admission and the fault entry -/

theorem takeFault_eq (code : FaultCode) (s : State) : takeFault code s = .next (raiseFault code s) := rfl

@[simp] theorem takeFault_next (code : FaultCode) (s t : State) : takeFault code s = .next t ↔ t = raiseFault code s := by
  rw [takeFault_eq, Host.Outcome.next.injEq, eq_comm]

/-- Two ports: what is not P0 is P1. -/
theorem Port.ne_p0 (p : Port) : p ≠ .p0 ↔ p = .p1 := by cases p <;> simp

theorem onP0_p0 (s : State) (run : Host.Outcome State Fault Refusal) (h : s.curPort = .p0) : onP0 s run = run := by
  simp [onP0, h]

theorem onP0_p1 (s : State) (run : Host.Outcome State Fault Refusal) (h : s.curPort = .p1) :
    onP0 s run = .next (raiseFault .portViolation s) := by
  simp [onP0, h, takeFault_eq]

theorem onP0_cases {s t : State} {run : Host.Outcome State Fault Refusal} (h : onP0 s run = .next t) :
    (s.curPort = .p0 ∧ run = .next t) ∨ (s.curPort = .p1 ∧ t = raiseFault .portViolation s) := by
  cases hp : s.curPort with
  | p0 => exact .inl ⟨rfl, by rwa [onP0_p0 s run hp] at h⟩
  | p1 => exact .inr ⟨rfl, by rw [onP0_p1 s run hp, Host.Outcome.next.injEq] at h; exact h.symm⟩

theorem whenPrepared_yes (s : State) (run : Host.Outcome State Fault Refusal) (h : s.prepared = true) :
    whenPrepared s run = run := by
  simp [whenPrepared, h]

theorem whenPrepared_no (s : State) (run : Host.Outcome State Fault Refusal) (h : s.prepared = false) :
    whenPrepared s run = .next (raiseFault .notPrepared s) := by
  simp [whenPrepared, h, takeFault_eq]

theorem whenPrepared_cases {s t : State} {run : Host.Outcome State Fault Refusal} (h : whenPrepared s run = .next t) :
    (s.prepared = true ∧ run = .next t) ∨ (s.prepared = false ∧ t = raiseFault .notPrepared s) := by
  cases hp : s.prepared with
  | true => exact .inl ⟨rfl, by rwa [whenPrepared_yes s run hp] at h⟩
  | false => exact .inr ⟨rfl, by rw [whenPrepared_no s run hp, Host.Outcome.next.injEq] at h; exact h.symm⟩

/-- The codes are 1 to 7. -/
theorem FaultCode.number_range (c : FaultCode) : 1 ≤ c.number ∧ c.number ≤ 7 := by cases c <;> decide

theorem errorEntry_error (code : FaultCode) (port : Port) (cmd : Cmd) (e : ErrorRegs) :
    (errorEntry code port cmd e).error = e.error ||| BitVec.ofNat 32 (2 ^ code.number) := rfl

theorem errorEntry_first (code : FaultCode) (port : Port) (cmd : Cmd) (e : ErrorRegs) (h : e.error = 0#32) :
    errorEntry code port cmd e =
      { error := e.error ||| BitVec.ofNat 32 (2 ^ code.number)
        errfirst := BitVec.ofNat 32 (code.number + port.number * 256)
        infoLo := cmd.extractLsb' 0 32
        infoHi := cmd.extractLsb' 32 32 } := by
  simp [errorEntry, h]

theorem errorEntry_later (code : FaultCode) (port : Port) (cmd : Cmd) (e : ErrorRegs) (h : e.error ≠ 0#32) :
    errorEntry code port cmd e = { e with error := e.error ||| BitVec.ofNat 32 (2 ^ code.number) } := by
  simp [errorEntry, h]

/-! ### The step -/

theorem retireOutcome_next {o : Host.Outcome State Fault Refusal} {t : State} :
    retireOutcome o = .next t ↔ ∃ u, o = .next u ∧ t = retire u := by
  cases o with
  | next u =>
    simp only [retireOutcome, Host.Outcome.next.injEq, exists_eq_left']
    exact eq_comm
  | fault r => simp [retireOutcome]
  | refused r => simp [retireOutcome]

/-- Which queue is served: none when both are empty, else a non-empty one; P1 against a filled P0 only by the free choice. -/
theorem nextPort_cases (s : State) :
    (nextPort s = none ∧ s.cq0 = [] ∧ s.cq1 = []) ∨
    (nextPort s = some .p0 ∧ s.cq0 ≠ [] ∧ (s.cq1 = [] ∨ Config.arbiter s.arbCount = false)) ∨
    (nextPort s = some .p1 ∧ s.cq1 ≠ [] ∧ (s.cq0 = [] ∨ Config.arbiter s.arbCount = true)) := by
  cases h0 : s.cq0 <;> cases h1 : s.cq1 <;> cases ha : Config.arbiter s.arbCount <;> simp [nextPort, queuesContend, h0, h1, ha]

/-- Everything a step that answers a next state can have done. -/
theorem step_cases {s t : State} (h : step s = .next t) :
    (nextPort s = none ∧ t = s) ∨
    ∃ port u, nextPort s = some port ∧ runCommand (popCommand port s) = .next u ∧ t = retire u := by
  unfold step at h
  cases hp : nextPort s with
  | none =>
    rw [hp] at h
    exact .inl ⟨rfl, (Host.Outcome.next.inj h).symm⟩
  | some port =>
    rw [hp] at h
    obtain ⟨u, hu, ht⟩ := retireOutcome_next.1 h
    exact .inr ⟨port, u, rfl, hu, ht⟩

/-- Everything the command just popped can have done. -/
theorem runCommand_cases {s t : State} (h : runCommand s = .next t) :
    (∃ e, decode s.curCmd = .error e ∧ t = raiseFault .illegalCmd s) ∨ (∃ i, decode s.curCmd = .ok i ∧ exec i s = .next t) := by
  unfold runCommand at h
  cases hd : decode s.curCmd with
  | error e =>
    rw [hd] at h
    exact .inl ⟨e, rfl, (takeFault_next _ _ _).1 h⟩
  | ok i =>
    rw [hd] at h
    exact .inr ⟨i, rfl, h⟩

/-! ### The pads -/

/-- What a trigger can do: nothing, or give the voice at the cursor to a loaded pad below 8. -/
theorem padTrigger_cases (p : Nat) (vel : F32) (s : State) :
    (¬(p < 8 ∧ (s.pad p).loaded = true) ∧ padTrigger p vel s = s) ∨
    (p < 8 ∧ (s.pad p).loaded = true ∧
      padTrigger p vel s = advancePadNext (setPadVoice s.padNext.toNat (triggeredVoice p vel) s)) := by
  unfold padTrigger
  by_cases hp : Config.npads ≤ p
  · refine .inl ⟨fun h => ?_, if_pos hp⟩
    exact absurd h.1 (Nat.not_lt.2 hp)
  · rw [if_neg hp]
    cases hl : (s.pad p).loaded with
    | false => exact .inl ⟨by simp, by simp⟩
    | true => exact .inr ⟨Nat.not_le.1 hp, rfl, by simp⟩

/-- What `PadInvalidate` does to one voice. -/
theorem padVoiceInvalidate_cases (p : Nat) (v : PadVoice) :
    (v.active = true ∧ v.src.toNat = p ∧ padVoiceInvalidate p v = { v with pos := 0xFFFFFFFF#32 }) ∨
    (¬(v.active = true ∧ v.src.toNat = p) ∧ padVoiceInvalidate p v = v) := by
  unfold padVoiceInvalidate
  by_cases h : v.active = true ∧ v.src.toNat = p
  · exact .inl ⟨h.1, h.2, by simp [h.1, h.2]⟩
  · refine .inr ⟨h, if_neg ?_⟩
    simpa using h

/-- When a load is good (R203, R204). -/
theorem padLoadOk_iff (pad : Nat) (s : State) :
    padLoadOk pad s = true ↔ pad < 8 ∧ 1 ≤ loadFrames s ∧ 1 ≤ s.staging.chans.toNat ∧
      s.staging.base.toNat + loadFrames s * s.staging.chans.toNat ≤ s.params.padMemWords := by
  simp only [padLoadOk, loadRangeOk, Bool.and_eq_true, decide_eq_true_eq, and_assoc]
  rfl

/-! ### The synth pool -/

theorem canHandle_iff (note : Nat) : canHandle note = true ↔ note < 36 ∨ 43 < note := by
  simp only [canHandle, Bool.not_eq_true', Bool.and_eq_false_iff, decide_eq_false_iff_not]
  simp only [Config.padBaseNote, Config.npads]
  omega

/-- The voice a note is given is one of the eight. -/
theorem synthAlloc_lt (s : State) : synthAlloc s < 8 := by
  unfold synthAlloc
  cases h : (searchOrder s.synthNext.toNat).find? (fun c => !(s.voice c).active) with
  | none => exact s.synthNext.isLt
  | some c =>
    have hc := List.mem_of_find?_eq_some h
    simp only [searchOrder, List.mem_map, List.mem_range] at hc
    obtain ⟨j, -, rfl⟩ := hc
    exact Nat.mod_lt _ (by decide)

/-- The voice a note is given is not active, or all eight are and it is the one at the cursor. -/
theorem synthAlloc_cases (s : State) :
    (s.voice (synthAlloc s)).active = false ∨ (synthAlloc s = s.synthNext.toNat ∧ ∀ i < 8, (s.voice i).active = true) := by
  unfold synthAlloc
  cases h : (searchOrder s.synthNext.toNat).find? (fun c => !(s.voice c).active) with
  | some c => exact .inl (by simpa using List.find?_some h)
  | none =>
    refine .inr ⟨rfl, fun i hi => ?_⟩
    have hn := s.synthNext.isLt
    have hall := List.find?_eq_none.1 h i (by
      simp only [searchOrder, List.mem_map, List.mem_range, Config.nv]
      exact ⟨(i + 8 - s.synthNext.toNat) % 8, Nat.mod_lt _ (by decide), by omega⟩)
    simpa using hall

/-! ### The register file -/

theorem writeParam_number (r : ParamReg) (x : Word) (s : State) (h : isNaN x = false) :
    writeParam r x s = .next (setParam r (legalise x r.lo r.hi) s) := by
  simp [writeParam, h]

theorem writeParam_nan (r : ParamReg) (x : Word) (s : State) (h : isNaN x = true) :
    writeParam r x s = .next (raiseFault .badOperand s) := by
  simp [writeParam, h, takeFault_eq]

/-- Reading a parameter register that was just written gives the value. -/
@[simp] theorem ParamReg.read_write_same (r : ParamReg) (v : F32) (p : ParamRegs) : r.read (r.write v p) = v := by
  cases r <;> rfl

/-- Writing a parameter register leaves the others. -/
theorem ParamReg.read_write_ne (r q : ParamReg) (v : F32) (p : ParamRegs) (h : q ≠ r) : q.read (r.write v p) = q.read p := by
  cases r <;> cases q <;> first | rfl | exact absurd rfl h

theorem pmDataWrite_cases (w : Word) (s : State) :
    (s.staging.pmAddr.toNat < s.params.padMemWords ∧
      pmDataWrite w s = .next (advancePmAddr (pmWrite s.staging.pmAddr.toNat w s))) ∨
    (s.params.padMemWords ≤ s.staging.pmAddr.toNat ∧ pmDataWrite w s = .next (raiseFault .pmRange s)) := by
  unfold pmDataWrite pmExists
  by_cases h : s.staging.pmAddr.toNat < s.params.padMemWords
  · exact .inl ⟨h, by simp [h]⟩
  · exact .inr ⟨Nat.not_lt.1 h, by simp [h, takeFault_eq]⟩

theorem pmDataRead_cases (s : State) :
    (s.staging.pmAddr.toNat < s.params.padMemWords ∧
      pmDataRead s = .next (advancePmAddr (pushResponse s.curPort (pmRead s s.staging.pmAddr.toNat) s))) ∨
    (s.params.padMemWords ≤ s.staging.pmAddr.toNat ∧
      pmDataRead s = .next (raiseFault .pmRange (pushResponse s.curPort 0#32 s))) := by
  unfold pmDataRead pmExists
  by_cases h : s.staging.pmAddr.toNat < s.params.padMemWords
  · exact .inl ⟨h, by simp [h]⟩
  · exact .inr ⟨Nat.not_lt.1 h, by simp [h, takeFault_eq]⟩

/-- Everything a register write can have done. -/
theorem writeReg_cases {r : Reg} {w : Word} {s t : State} (h : writeReg r w s = .next t) :
    (∃ code, t = raiseFault code s) ∨ (∃ q v, r = .param q ∧ isNaN w = false ∧ v = legalise w q.lo q.hi ∧ t = setParam q v s) ∨
    (∃ g, t = setStaging g s) ∨
    (r = .pmData ∧ s.staging.pmAddr.toNat < s.params.padMemWords ∧ t = advancePmAddr (pmWrite s.staging.pmAddr.toNat w s)) := by
  cases r <;> simp only [writeReg, takeFault_next, Host.Outcome.next.injEq] at h
  case param q =>
    cases hn : isNaN w with
    | true =>
      rw [writeParam_nan q w s hn, Host.Outcome.next.injEq] at h
      exact .inl ⟨_, h.symm⟩
    | false =>
      rw [writeParam_number q w s hn, Host.Outcome.next.injEq] at h
      exact .inr (.inl ⟨q, _, rfl, rfl, rfl, h.symm⟩)
  case pmData =>
    rcases pmDataWrite_cases w s with ⟨hlt, hw⟩ | ⟨-, hw⟩ <;> rw [hw, Host.Outcome.next.injEq] at h
    · exact .inr (.inr (.inr ⟨rfl, hlt, h.symm⟩))
    · exact .inl ⟨_, h.symm⟩
  all_goals first
    | exact .inl ⟨_, h⟩
    | exact .inr (.inr (.inl ⟨_, h.symm⟩))

/-! ### Everything each command can do -/

theorem execPrepare_cases {n : Nat} {r : F32} {s t : State} (h : execPrepare n r s = .next t) :
    (∃ code, t = raiseFault code s) ∨
    (s.curPort = .p0 ∧ prepareOk s.params n r = true ∧ t = engineClear (configure n r s)) := by
  rcases onP0_cases h with ⟨hp, h⟩ | ⟨-, h⟩
  · split at h
    case isTrue hok => exact .inr ⟨hp, hok, (Host.Outcome.next.inj h).symm⟩
    case isFalse => exact .inl ⟨_, (takeFault_next _ _ _).1 h⟩
  · exact .inl ⟨_, h⟩

theorem execRelease_cases {s t : State} (h : execRelease s = .next t) :
    (∃ code, t = raiseFault code s) ∨ (s.curPort = .p0 ∧ t = engineClear { s with prepared := false }) := by
  rcases onP0_cases h with ⟨hp, h⟩ | ⟨-, h⟩
  · exact .inr ⟨hp, (Host.Outcome.next.inj h).symm⟩
  · exact .inl ⟨_, h⟩

theorem execRender_cases {n : Nat} {s t : State} (h : execRender n s = .next t) :
    (∃ code, t = raiseFault code s) ∨
    (s.curPort = .p0 ∧ s.prepared = true ∧ n ≤ s.maxBlock.toNat ∧ padReadsExist s n = true ∧ t = renderBlock s n) := by
  rcases onP0_cases h with ⟨hp, h⟩ | ⟨-, h⟩
  · rcases whenPrepared_cases h with ⟨hq, h⟩ | ⟨-, h⟩
    · split at h
      · exact .inl ⟨_, (takeFault_next _ _ _).1 h⟩
      case isFalse hn =>
        split at h
        case isTrue hr => exact .inr ⟨hp, hq, Nat.not_lt.1 hn, hr, (Host.Outcome.next.inj h).symm⟩
        case isFalse => exact absurd h (by simp)
    · exact .inl ⟨_, h⟩
  · exact .inl ⟨_, h⟩

theorem execNoteOn_cases {note chan : Nat} {vel : F32} {s t : State} (h : execNoteOn note chan vel s = .next t) :
    (∃ code, t = raiseFault code s) ∨
    (s.curPort = .p0 ∧ s.prepared = true ∧ isNaN vel = false ∧
      ((canHandle note = true ∧ t = synthStart (synthAlloc s) note vel (advanceSynthNext (synthAlloc s) s)) ∨
        (canHandle note = false ∧ t = padTrigger (note - 36) vel s))) := by
  rcases onP0_cases h with ⟨hp, h⟩ | ⟨-, h⟩
  · rcases whenPrepared_cases h with ⟨hq, h⟩ | ⟨-, h⟩
    · cases hn : isNaN vel with
      | true => simp only [hn] at h; exact .inl ⟨_, (takeFault_next _ _ _).1 h⟩
      | false =>
        cases hc : canHandle note with
        | true => simp only [hn, hc] at h; exact .inr ⟨hp, hq, rfl, .inl ⟨rfl, (Host.Outcome.next.inj h).symm⟩⟩
        | false => simp only [hn, hc] at h; exact .inr ⟨hp, hq, rfl, .inr ⟨rfl, (Host.Outcome.next.inj h).symm⟩⟩
    · exact .inl ⟨_, h⟩
  · exact .inl ⟨_, h⟩

/-- What both stops can do. -/
theorem stop_cases {note : Nat} {tail : Bool} {s t : State}
    (h : onP0 s (whenPrepared s (if canHandle note then .next (synthStop note tail s) else .next s)) = .next t) :
    (∃ code, t = raiseFault code s) ∨
    (s.curPort = .p0 ∧ s.prepared = true ∧
      ((canHandle note = true ∧ t = synthStop note tail s) ∨ (canHandle note = false ∧ t = s))) := by
  rcases onP0_cases h with ⟨hp, h⟩ | ⟨-, h⟩
  · rcases whenPrepared_cases h with ⟨hq, h⟩ | ⟨-, h⟩
    · cases hc : canHandle note with
      | true => simp only [hc] at h; exact .inr ⟨hp, hq, .inl ⟨rfl, (Host.Outcome.next.inj h).symm⟩⟩
      | false => simp only [hc] at h; exact .inr ⟨hp, hq, .inr ⟨rfl, (Host.Outcome.next.inj h).symm⟩⟩
    · exact .inl ⟨_, h⟩
  · exact .inl ⟨_, h⟩

theorem execNoteOff_cases {note chan : Nat} {vel : F32} {s t : State} (h : execNoteOff note chan vel s = .next t) :
    (∃ code, t = raiseFault code s) ∨
    (s.curPort = .p0 ∧ s.prepared = true ∧
      ((canHandle note = true ∧ t = synthStop note true s) ∨ (canHandle note = false ∧ t = s))) := stop_cases h

theorem execNoteCut_cases {note chan : Nat} {vel : F32} {s t : State} (h : execNoteCut note chan vel s = .next t) :
    (∃ code, t = raiseFault code s) ∨
    (s.curPort = .p0 ∧ s.prepared = true ∧
      ((canHandle note = true ∧ t = synthStop note false s) ∨ (canHandle note = false ∧ t = s))) := stop_cases h

theorem execPadTrig_cases {pad : Nat} {vel : F32} {s t : State} (h : execPadTrig pad vel s = .next t) :
    (isNaN vel = true ∧ t = raiseFault .badOperand s) ∨ (isNaN vel = false ∧ t = padTrigger pad vel s) := by
  unfold execPadTrig at h
  cases hn : isNaN vel with
  | true => simp only [hn] at h; exact .inl ⟨rfl, (takeFault_next _ _ _).1 h⟩
  | false => simp only [hn] at h; exact .inr ⟨rfl, (Host.Outcome.next.inj h).symm⟩

theorem execPadLoad_cases {pad : Nat} {s t : State} (h : execPadLoad pad s = .next t) :
    (padLoadOk pad s = true ∧ t = setLoadOk s.curPort true (setPad pad (stagedSlot s) (padInvalidate pad s))) ∨
    (padLoadOk pad s = false ∧ t = setLoadOk s.curPort false s) := by
  unfold execPadLoad at h
  cases hk : padLoadOk pad s with
  | true => simp only [hk] at h; exact .inl ⟨rfl, (Host.Outcome.next.inj h).symm⟩
  | false => simp only [hk] at h; exact .inr ⟨rfl, (Host.Outcome.next.inj h).symm⟩

theorem execPadClear_cases {pad : Nat} {s t : State} (h : execPadClear pad s = .next t) :
    (8 ≤ pad ∧ t = s) ∨ (pad < 8 ∧ t = setPad pad PadSlot.empty (padInvalidate pad s)) := by
  unfold execPadClear at h
  split at h
  case isTrue hp => exact .inl ⟨hp, (Host.Outcome.next.inj h).symm⟩
  case isFalse hp => exact .inr ⟨Nat.not_le.1 hp, (Host.Outcome.next.inj h).symm⟩

theorem execWrreg_cases {a : Nat} {w : Word} {s t : State} (h : execWrreg a w s = .next t) :
    (Reg.ofAddr s.params a = none ∧ t = raiseFault .badReg s) ∨
    (∃ r, Reg.ofAddr s.params a = some r ∧ writeReg r w s = .next t) := by
  unfold execWrreg at h
  cases hr : Reg.ofAddr s.params a with
  | none => rw [hr] at h; exact .inl ⟨rfl, (takeFault_next _ _ _).1 h⟩
  | some r => rw [hr] at h; exact .inr ⟨r, rfl, h⟩

/-! ### Masks and the windows of the register map -/

/-- Bit `k` of a mask is the `k`-th flag. -/
theorem maskOf_testBit (bs : List Bool) (k : Nat) : (maskOf bs).testBit k = bs.getD k false := by
  induction bs generalizing k with
  | nil => simp [maskOf]
  | cons b bs ih =>
    cases k with
    | zero => cases b <;> simp [maskOf, bitOf, Nat.testBit_zero]
    | succ k =>
      have h : (bitOf b + 2 * maskOf bs) / 2 = maskOf bs := by
        cases b <;> (simp only [bitOf, Bool.false_eq_true, if_true, if_false]; omega)
      simp [maskOf, Nat.testBit_succ, h, ih]

/-- Bit `k` of a mask as a register word. -/
theorem maskOf_getLsbD (bs : List Bool) (k : Nat) : (BitVec.ofNat 32 (maskOf bs)).getLsbD k = (decide (k < 32) && bs.getD k false) := by
  rw [BitVec.getLsbD_ofNat, maskOf_testBit]

/-- An entry of a window that exists is mapped. -/
theorem regWindow_entry (stride n used e j : Nat) (mk : Nat → Nat → Reg) (he : e < n) (hj : j < used) (hs : used ≤ stride) :
    regWindow (stride * e + j) stride n used mk = some (mk e j) := by
  have h : (stride * e + j) / stride = e := by rw [Nat.mul_add_div (by omega), Nat.div_eq_of_lt (by omega), Nat.add_zero]
  have g : (stride * e + j) % stride = j := by rw [Nat.mul_add_mod, Nat.mod_eq_of_lt (by omega)]
  simp [regWindow, h, g, he, hj]

theorem execRdreg_cases {a : Nat} {s t : State} (h : execRdreg a s = .next t) :
    (Reg.ofAddr s.params a = none ∧ t = raiseFault .badReg (pushResponse s.curPort 0#32 s)) ∨
    (∃ r, Reg.ofAddr s.params a = some r ∧ r ≠ .pmData ∧ t = pushResponse s.curPort (regValue s r) s) ∨
    (Reg.ofAddr s.params a = some .pmData ∧ pmDataRead s = .next t) := by
  unfold execRdreg at h
  cases hr : Reg.ofAddr s.params a with
  | none => rw [hr] at h; exact .inl ⟨rfl, (takeFault_next _ _ _).1 h⟩
  | some r =>
    rw [hr] at h
    by_cases hd : r = .pmData
    · subst hd
      exact .inr (.inr ⟨rfl, by simpa using h⟩)
    · simp only [hd, if_false] at h
      exact .inr (.inl ⟨r, rfl, hd, (Host.Outcome.next.inj h).symm⟩)

end Sys2Proof.Machine
end

