-- ==== Sys2Proof/Laws/PerInstr.lean ====
section
/-!
SUPPORT. A family of statements made once per command: the encoding of a command selects a row of the opcode table, and the operands
of that row are the command's kind (spec/30_encoding.md R119).
-/
namespace Sys2Proof.Laws

/-- The row a command's encoding selects (R119). -/
def EncodingRow.opcode : Instr → Opcode
  | .nop => .nop
  | .prepare _ _ => .prepare
  | .release => .release
  | .render _ => .render
  | .noteOn _ _ _ => .noteOn
  | .noteOff _ _ _ => .noteOff
  | .noteCut _ _ _ => .noteCut
  | .padTrig _ _ => .padTrig
  | .padLoad _ => .padLoad
  | .padClear _ => .padClear
  | .wrreg _ _ => .wrreg
  | .rdreg _ => .rdreg

/-- The encoding of a command, well formed or not, matches the row of its opcode: the opcode field is the row's and every must-be-zero
bit is 0. -/
def EncodingRow.Statement (i : Instr) : Prop :=
  ∃ r ∈ opcodeTable, r.op = EncodingRow.opcode i ∧ encode i &&& r.mask = r.pattern

/-- Masking a word masks its five fields. -/
theorem packFields_and (a b c d a' b' c' d' : BitVec 8) (e e' : Word) :
    packFields a b c d e &&& packFields a' b' c' d' e' = packFields (a &&& a') (b &&& b') (c &&& c') (d &&& d') (e &&& e') := by
  show (a ++ b ++ c ++ d ++ e : BitVec (8 + 8 + 8 + 8 + 32)) &&& (a' ++ b' ++ c' ++ d' ++ e') = _
  rw [BitVec.and_append, BitVec.and_append, BitVec.and_append, BitVec.and_append]
  rfl

/-- The note field has bit 7 clear. -/
theorem noteField_and (x : BitVec 7) : (0#1 ++ x) &&& 0x80#8 = 0#8 := by
  revert x; decide

/-- The channel field has bits 7 to 4 clear. -/
theorem chanField_and (x : BitVec 4) : (0#4 ++ x) &&& 0xF0#8 = 0#8 := by
  revert x; decide

/-- A word whose fields, masked by a row's mask, are the row's fields selects the row. -/
theorem selects_of_fields (o a b c mo ma mb mc po pa pb pc : BitVec 8) (e me pe : Word)
    (ho : o &&& mo = po) (ha : a &&& ma = pa) (hb : b &&& mb = pb) (hc : c &&& mc = pc) (he : e &&& me = pe) :
    packFields o a b c e &&& packFields mo ma mb mc me = packFields po pa pb pc pe := by
  rw [packFields_and, ho, ha, hb, hc, he]

/-- A field masked by all zeros is zero. -/
theorem and_none8 (x : BitVec 8) : x &&& 0#8 = 0#8 := BitVec.and_zero

theorem and_none32 (x : Word) : x &&& 0#32 = 0#32 := BitVec.and_zero

theorem EncodingRow.nop : EncodingRow.Statement .nop :=
  ⟨_, .head _, rfl, by decide⟩

theorem EncodingRow.prepare (maxBlock : Nat) (rate : F32) : EncodingRow.Statement (.prepare maxBlock rate) :=
  ⟨_, .tail _ (.head _), rfl,
    selects_of_fields 0x01#8 _ _ _ 0xFF#8 0#8 0#8 0#8 0x01#8 0#8 0#8 0#8 _ 0#32 0#32 rfl (and_none8 _) (and_none8 _) (and_none8 _)
      (and_none32 _)⟩

theorem EncodingRow.release : EncodingRow.Statement .release :=
  ⟨_, .tail _ (.tail _ (.head _)), rfl, by decide⟩

theorem EncodingRow.render (count : Nat) : EncodingRow.Statement (.render count) :=
  ⟨_, .tail _ (.tail _ (.tail _ (.head _))), rfl,
    selects_of_fields 0x08#8 0#8 0#8 0#8 0xFF#8 0xFF#8 0xFF#8 0xFF#8 0x08#8 0#8 0#8 0#8 _ 0#32 0#32 rfl rfl rfl rfl (and_none32 _)⟩

/-- The three note rows differ in the opcode only. -/
theorem note_selects (op : BitVec 8) (note chan : Nat) (vel : F32) :
    packNote op note chan vel &&& packFields 0xFF#8 0x80#8 0xF0#8 0xFF#8 0#32 = packFields op 0#8 0#8 0#8 0#32 :=
  selects_of_fields op _ _ 0#8 0xFF#8 0x80#8 0xF0#8 0xFF#8 op 0#8 0#8 0#8 vel 0#32 0#32 (BitVec.and_allOnes (x := op))
    (noteField_and _) (chanField_and _) rfl (and_none32 _)

theorem EncodingRow.noteOn (note chan : Nat) (vel : F32) : EncodingRow.Statement (.noteOn note chan vel) :=
  ⟨_, .tail _ (.tail _ (.tail _ (.tail _ (.head _)))), rfl, note_selects 0x10#8 note chan vel⟩

theorem EncodingRow.noteOff (note chan : Nat) (vel : F32) : EncodingRow.Statement (.noteOff note chan vel) :=
  ⟨_, .tail _ (.tail _ (.tail _ (.tail _ (.tail _ (.head _))))), rfl, note_selects 0x11#8 note chan vel⟩

theorem EncodingRow.noteCut (note chan : Nat) (vel : F32) : EncodingRow.Statement (.noteCut note chan vel) :=
  ⟨_, .tail _ (.tail _ (.tail _ (.tail _ (.tail _ (.tail _ (.head _)))))), rfl, note_selects 0x12#8 note chan vel⟩

theorem EncodingRow.padTrig (pad : Nat) (vel : F32) : EncodingRow.Statement (.padTrig pad vel) :=
  ⟨_, .tail _ (.tail _ (.tail _ (.tail _ (.tail _ (.tail _ (.tail _ (.head _))))))), rfl,
    selects_of_fields 0x20#8 _ 0#8 0#8 0xFF#8 0#8 0xFF#8 0xFF#8 0x20#8 0#8 0#8 0#8 vel 0#32 0#32 rfl (and_none8 _) rfl rfl
      (and_none32 _)⟩

theorem EncodingRow.padLoad (pad : Nat) : EncodingRow.Statement (.padLoad pad) :=
  ⟨_, .tail _ (.tail _ (.tail _ (.tail _ (.tail _ (.tail _ (.tail _ (.tail _ (.head _)))))))), rfl,
    selects_of_fields 0x21#8 _ 0#8 0#8 0xFF#8 0#8 0xFF#8 0xFF#8 0x21#8 0#8 0#8 0#8 0#32 0xFFFFFFFF#32 0#32 rfl (and_none8 _) rfl rfl rfl⟩

theorem EncodingRow.padClear (pad : Nat) : EncodingRow.Statement (.padClear pad) :=
  ⟨_, .tail _ (.tail _ (.tail _ (.tail _ (.tail _ (.tail _ (.tail _ (.tail _ (.tail _ (.head _))))))))), rfl,
    selects_of_fields 0x22#8 _ 0#8 0#8 0xFF#8 0#8 0xFF#8 0xFF#8 0x22#8 0#8 0#8 0#8 0#32 0xFFFFFFFF#32 0#32 rfl (and_none8 _) rfl rfl rfl⟩

theorem EncodingRow.wrreg (addr : Nat) (data : Word) : EncodingRow.Statement (.wrreg addr data) :=
  ⟨_, .tail _ (.tail _ (.tail _ (.tail _ (.tail _ (.tail _ (.tail _ (.tail _ (.tail _ (.tail _ (.head _)))))))))), rfl,
    selects_of_fields 0x30#8 _ _ 0#8 0xFF#8 0#8 0#8 0xFF#8 0x30#8 0#8 0#8 0#8 data 0#32 0#32 rfl (and_none8 _) (and_none8 _) rfl
      (and_none32 _)⟩

theorem EncodingRow.rdreg (addr : Nat) : EncodingRow.Statement (.rdreg addr) :=
  ⟨_, .tail _ (.tail _ (.tail _ (.tail _ (.tail _ (.tail _ (.tail _ (.tail _ (.tail _ (.tail _ (.tail _ (.head _))))))))))), rfl,
    selects_of_fields 0x31#8 _ _ 0#8 0xFF#8 0#8 0#8 0xFF#8 0x31#8 0#8 0#8 0#8 0#32 0xFFFFFFFF#32 0#32 rfl (and_none8 _) (and_none8 _) rfl
      rfl⟩

end Sys2Proof.Laws
end

