-- ==== Sys2Proof/Laws/Render.lean ====
section
/-!
SUPPORT. The lemmas of the render path: what a voice keeps over a sample, the lengths of the rows, and the renders as maps over their
voices.
-/
namespace Sys2Proof.Machine

/-! ### The envelope keeps its times and rates -/

/-- A sample changes the stage and the level of an envelope only. -/
theorem envNextSample_frame (e : Env) :
    envNextSample e = { e with stage := (envNextSample e).stage, level := (envNextSample e).level } := by
  unfold envNextSample envAttackStep envDecayStep envSustainStep envReleaseStep
  cases e.stage <;> dsimp only <;> split_ifs <;> rfl

@[simp] theorem envNextSample_attack (e : Env) : (envNextSample e).attack = e.attack := by rw [envNextSample_frame]
@[simp] theorem envNextSample_decay (e : Env) : (envNextSample e).decay = e.decay := by rw [envNextSample_frame]
@[simp] theorem envNextSample_sustain (e : Env) : (envNextSample e).sustain = e.sustain := by rw [envNextSample_frame]
@[simp] theorem envNextSample_release (e : Env) : (envNextSample e).release = e.release := by rw [envNextSample_frame]
@[simp] theorem envNextSample_arate (e : Env) : (envNextSample e).arate = e.arate := by rw [envNextSample_frame]
@[simp] theorem envNextSample_drate (e : Env) : (envNextSample e).drate = e.drate := by rw [envNextSample_frame]
@[simp] theorem envNextSample_rrate (e : Env) : (envNextSample e).rrate = e.rrate := by rw [envNextSample_frame]

/-! ### One frame of a voice -/

@[simp] theorem voiceStep_freq (fs : F32) (v : Voice) : (voiceStep fs v).freq = v.freq := rfl
@[simp] theorem voiceStep_velgain (fs : F32) (v : Voice) : (voiceStep fs v).velgain = v.velgain := rfl
@[simp] theorem voiceStep_note (fs : F32) (v : Voice) : (voiceStep fs v).note = v.note := rfl
@[simp] theorem voiceStep_active (fs : F32) (v : Voice) : (voiceStep fs v).active = v.active := rfl
@[simp] theorem voiceStep_env (fs : F32) (v : Voice) : (voiceStep fs v).env = envNextSample v.env := rfl
@[simp] theorem voiceStep_phase (fs : F32) (v : Voice) :
    (voiceStep fs v).phase = phaseAdvance v.phase (phaseInc v.freq fs) := rfl

@[simp] theorem voiceFree_phase (v : Voice) : (voiceFree v).phase = v.phase := by unfold voiceFree; split <;> rfl
@[simp] theorem voiceFree_freq (v : Voice) : (voiceFree v).freq = v.freq := by unfold voiceFree; split <;> rfl
@[simp] theorem voiceFree_velgain (v : Voice) : (voiceFree v).velgain = v.velgain := by unfold voiceFree; split <;> rfl
@[simp] theorem voiceFree_note (v : Voice) : (voiceFree v).note = v.note := by unfold voiceFree; split <;> rfl
@[simp] theorem voiceFree_env (v : Voice) : (voiceFree v).env = v.env := by unfold voiceFree; split <;> rfl

/-- The samples of a run are one per frame. -/
@[simp] theorem voiceRun_length (fs : F32) (n : Nat) (v : Voice) : (voiceRun fs n v).1.length = n := by
  induction n generalizing v with
  | zero => rfl
  | succ n ih => simp [voiceRun, ih]

/-- The voice after a run is the voice after that many frames. -/
theorem voiceRun_snd (fs : F32) (n : Nat) (v : Voice) : (voiceRun fs n v).2 = (voiceStep fs)^[n] v := by
  induction n generalizing v with
  | zero => rfl
  | succ n ih => simp [voiceRun, ih]

/-- Sample `i` of a run is the sample of the voice after `i` frames. -/
theorem voiceRun_getD (fs : F32) (n i : Nat) (v : Voice) (h : i < n) :
    (voiceRun fs n v).1.getD i fZero =
      voiceSample ((voiceStep fs)^[i] v).phase (envNextSample ((voiceStep fs)^[i] v).env).level v.velgain := by
  induction n generalizing v i with
  | zero => omega
  | succ n ih =>
    cases i with
    | zero => rfl
    | succ i => simpa [voiceRun] using ih i (voiceStep fs v) (by omega)

/-! ### Rows -/

@[simp] theorem addInto_length (row ys : List F32) : (addInto row ys).length = row.length := by
  induction row generalizing ys with
  | nil => rfl
  | cons x row ih => cases ys <;> simp [addInto, ih]

/-- What an entry of a row is after samples were added into it. -/
theorem addInto_getD (row ys : List F32) (i : Nat) (h : i < row.length) :
    (addInto row ys).getD i fZero = if i < ys.length then fadd (row.getD i fZero) (ys.getD i fZero) else row.getD i fZero := by
  induction row generalizing ys i with
  | nil => simp at h
  | cons x row ih =>
    cases ys with
    | nil => simp [addInto]
    | cons y ys =>
      cases i with
      | zero => simp [addInto]
      | succ i => simpa [addInto] using ih ys i (by simpa using h)

@[simp] theorem filterRow_length (k : Coefs) (b : Biquad) (xs : List F32) : (filterRow k b xs).1.length = xs.length := by
  induction xs generalizing b with
  | nil => rfl
  | cons x xs ih => simp [filterRow, ih]

@[simp] theorem clearMix_length (nch n : Nat) : (clearMix nch n).length = nch := by simp [clearMix]

theorem clearMix_row (nch n : Nat) (row : List F32) (h : row ∈ clearMix nch n) : row.length = n := by
  obtain ⟨-, rfl⟩ := List.mem_replicate.1 h
  simp

@[simp] theorem scaleMix_length (g : F32) (mix : Mix) : (scaleMix g mix).length = mix.length := by simp [scaleMix]

@[simp] theorem fitFrame_length (nch : Nat) (frame : List F32) : (fitFrame nch frame).length = nch := by simp [fitFrame]

/-! ### The reverb insert -/

theorem reverbFn_length (p : Params) (rp : ReverbParams) (rvs : Rvs) (frame : List F32) (h : frame.length = p.nch) :
    (reverbFn p rp rvs frame).2.length = p.nch := by
  unfold reverbFn
  split
  · exact h
  · exact fitFrame_length _ _

@[simp] theorem headD_eq_getD_zero (row : List F32) : row.headD 0#32 = row.getD 0 0#32 := by cases row <;> rfl

theorem tail_getD (row : List F32) (i : Nat) : row.tail.getD i 0#32 = row.getD (i + 1) 0#32 := by cases row <;> simp

/-- A row of frames put in front of the rows that follow them. -/
theorem zipWith_cons_getD (frame : List F32) (rows : Mix) (c : Nat) (h : frame.length = rows.length) (hc : c < frame.length) :
    (List.zipWith List.cons frame rows).getD c [] = frame.getD c 0#32 :: rows.getD c [] := by
  induction frame generalizing rows c with
  | nil => simp at hc
  | cons x frame ih =>
    cases rows with
    | nil => simp at h
    | cons row rows =>
      cases c with
      | zero => rfl
      | succ c => simpa using ih rows c (by simpa using h) (by simpa using hc)

theorem reverbApply_length (p : Params) (rp : ReverbParams) (n : Nat) (rvs : Rvs) (mix : Mix) (h : mix.length = p.nch) :
    (reverbApply p rp n rvs mix).2.length = p.nch := by
  induction n generalizing rvs mix with
  | zero => simpa [reverbApply] using h
  | succ n ih =>
    simp only [reverbApply, List.length_zipWith]
    rw [reverbFn_length _ _ _ _ (by simpa using h), ih _ _ (by simpa using h), Nat.min_self]

/-- All that `ReverbApply` does (R245): frame `i` goes through with the state that the frame before left, and the last state stays. -/
theorem reverbApply_frames (p : Params) (rp : ReverbParams) (n : Nat) (rvs : Rvs) (mix : Mix) (h : mix.length = p.nch) :
    ∃ rv : Nat → Rvs, rv 0 = rvs ∧ (reverbApply p rp n rvs mix).1 = rv n ∧ ∀ i < n,
      rv (i + 1) = (reverbFn p rp (rv i) (mix.map (fun row => row.getD i 0#32))).1 ∧
      ∀ c < p.nch, ((reverbApply p rp n rvs mix).2.getD c []).getD i 0#32 =
        (reverbFn p rp (rv i) (mix.map (fun row => row.getD i 0#32))).2.getD c 0#32 := by
  induction n generalizing rvs mix with
  | zero => exact ⟨fun _ => rvs, rfl, rfl, fun i hi => absurd hi (Nat.not_lt_zero i)⟩
  | succ n ih =>
    have hl : (reverbFn p rp rvs (mix.map (fun row => row.getD 0 0#32))).2.length = p.nch :=
      reverbFn_length _ _ _ _ (by simpa using h)
    have ht : (mix.map List.tail).length = p.nch := by simpa using h
    obtain ⟨rv, h0, hn, hi⟩ := ih (reverbFn p rp rvs (mix.map (fun row => row.getD 0 0#32))).1 (mix.map List.tail) ht
    refine ⟨fun i => match i with | 0 => rvs | j + 1 => rv j, rfl, ?_, ?_⟩
    · simpa only [reverbApply, headD_eq_getD_zero] using hn
    · intro i hin
      have hrow : ∀ c < p.nch, ((reverbApply p rp (n + 1) rvs mix).2.getD c []) =
          (reverbFn p rp rvs (mix.map (fun row => row.getD 0 0#32))).2.getD c 0#32 ::
            ((reverbApply p rp n (reverbFn p rp rvs (mix.map (fun row => row.getD 0 0#32))).1 (mix.map List.tail)).2.getD c []) := by
        intro c hc
        simp only [reverbApply, headD_eq_getD_zero]
        exact zipWith_cons_getD _ _ c (by rw [hl, reverbApply_length _ _ _ _ _ ht]) (by omega)
      cases i with
      | zero => exact ⟨h0, fun c hc => by rw [hrow c hc]; rfl⟩
      | succ i =>
        have := hi i (by omega)
        simp only [List.map_map, Function.comp_def, tail_getD] at this
        exact ⟨this.1, fun c hc => by rw [hrow c hc]; exact this.2 c hc⟩

/-! ### The renders as maps over their voices -/

/-- The voices after a synth render, whatever the mix held. -/
theorem synthRender_fst (fs : F32) (n : Nat) (vs : List Voice) (mix : Mix) :
    (synthRender fs n vs mix).1 = vs.map (fun v => (voiceRender fs n v []).1) := by
  induction vs generalizing mix with
  | nil => rfl
  | cons v vs ih =>
    simp only [synthRender, List.map_cons, ih]
    congr 1
    unfold voiceRender
    split <;> rfl

/-- The pad voices after a pad render, whatever the mix held. -/
theorem padRender_fst (s : State) (n : Nat) (vs : List PadVoice) (mix : Mix) :
    (padRender s n vs mix).1 = vs.map (fun v => (padVoiceRender s n v []).1) := by
  induction vs generalizing mix with
  | nil => rfl
  | cons v vs ih =>
    simp only [padRender, List.map_cons, ih]
    congr 1
    unfold padVoiceRender
    split <;> rfl

theorem synthRender_length (fs : F32) (n : Nat) (vs : List Voice) (mix : Mix) :
    (synthRender fs n vs mix).2.length = mix.length := by
  induction vs generalizing mix with
  | nil => rfl
  | cons v vs ih =>
    simp only [synthRender, ih]
    unfold voiceRender
    split <;> simp

end Sys2Proof.Machine
end

