-- ==== Sys2Proof/Tests/Slice0.lean ====
section
/-!
SUPPORT. Tests: ill-formed terms that `WellFormed` refuses, words written out from spec/30_encoding.md that decode, examples of the rules
of spec/ and of spec/95_test_vectors.md, and for the statements of Certificates/Slice0 states that meet their hypotheses.
-/
namespace Sys2Proof.Tests
open Sys2Proof Sys2Proof.Machine

-- one test after the other: the kernel evaluates each, and a thread for each at once takes more memory than check.sh allows
set_option Elab.async false

/-! ### WellFormed: one ill-formed term for each check -/

theorem test_maxBlock_too_wide : (Instr.prepare (2 ^ 24) 0x472C4400#32).wellFormed = false := by decide
theorem test_count_too_wide : (Instr.render (2 ^ 32)).wellFormed = false := by decide
theorem test_note_too_wide : (Instr.noteOn 128 0 0#32).wellFormed = false := by decide
theorem test_chan_too_wide : (Instr.noteOff 60 16 0#32).wellFormed = false := by decide
theorem test_pad_too_wide : (Instr.padLoad 256).wellFormed = false := by decide
theorem test_addr_too_wide : (Instr.wrreg 65536 0#32).wellFormed = false := by decide

/-! ### Decode: words written out from R111 to R119 and R127 -/

theorem test_decode_nop : decode 0x0000000000000000#64 = .ok .nop := by decide
/-- opcode 0x01, maxBlock 0x000200, rate 44100.0 (R127) -/
theorem test_decode_prepare : decode 0x01000200472C4400#64 = .ok (.prepare 512 0x472C4400#32) := by decide
/-- all 24 bits of the block size are read, a = [23:16], b = [15:8], c = [7:0] (R118) -/
theorem test_decode_prepare_bytes : decode 0x01ABCDEF00000001#64 = .ok (.prepare 0xABCDEF 1#32) := by decide
theorem test_decode_release : decode 0x0200000000000000#64 = .ok .release := by decide
theorem test_decode_render : decode 0x0800000000000200#64 = .ok (.render 512) := by decide
theorem test_decode_noteOn : decode 0x103C09003F000000#64 = .ok (.noteOn 60 9 0x3F000000#32) := by decide
theorem test_decode_noteOff : decode 0x1145000000000000#64 = .ok (.noteOff 69 0 0#32) := by decide
theorem test_decode_noteCut : decode 0x1245000000000000#64 = .ok (.noteCut 69 0 0#32) := by decide
theorem test_decode_padTrig : decode 0x200300003F59999A#64 = .ok (.padTrig 3 0x3F59999A#32) := by decide
theorem test_decode_padLoad : decode 0x2103000000000000#64 = .ok (.padLoad 3) := by decide
theorem test_decode_padClear : decode 0x2203000000000000#64 = .ok (.padClear 3) := by decide
theorem test_decode_wrreg : decode 0x300012003F800000#64 = .ok (.wrreg 0x12 0x3F800000#32) := by decide
/-- `RDREG OUT[1][5]`: a = 0x90, b = 0x05 (R127) -/
theorem test_decode_rdreg : decode 0x3190050000000000#64 = .ok (.rdreg 0x9005) := by decide
/-- the illegal words of R300 -/
theorem test_decode_illegal :
    decode 0xFF00000000000000#64 = .error .unknownOpcode ∧ decode 0x0000000000000001#64 = .error .mustBeZero ∧
    decode 0x10C500003F800000#64 = .error .mustBeZero ∧ decode 0x3100010000000001#64 = .error .mustBeZero ∧
    decode 0x0800000100000010#64 = .error .mustBeZero := by decide
/-- the example word of a byte stream, least significant byte first (R84) -/
theorem test_byte_order :
    cmdOfBytes [0x00#8, 0x44#8, 0x2C#8, 0x47#8, 0x00#8, 0x02#8, 0x00#8, 0x01#8] = 0x01000200472C4400#64 := by decide
theorem test_table_word : decodeTableWord 64 0x2103000000000000 = some (.padLoad 3) := by decide

/-! ### Small states -/

/-- The next state of an outcome; the state after reset for a stop. -/
def stateOf (o : Host.Outcome State Fault Refusal) : State :=
  match o with
  | .next s => s
  | .fault _ => State.reset
  | .refused _ => State.reset

/-- Whether an outcome is a next state. -/
def isNext (o : Host.Outcome State Fault Refusal) : Bool :=
  match o with
  | .next _ => true
  | .fault _ => false
  | .refused _ => false

/-- An outcome that is a next state, and which. -/
theorem next_eq (o : Host.Outcome State Fault Refusal) (t : State) (h : isNext o = true) (g : stateOf o = t) : o = .next t := by
  cases o with
  | next s => exact congrArg _ g
  | fault r => exact Bool.noConfusion h
  | refused r => exact Bool.noConfusion h

/-- The state after the next step when the host has pushed one word. -/
def run (port : Port) (w : Cmd) (s : State) : State := stateOf (step (hostPush port w s))

/-- After `PREPARE 44100.0, 512`. -/
def prep : State := { State.reset with prepared := true, fs := 0x472C4400#32, maxBlock := 512#13 }

/-- A voice that plays note 69, in Sustain at 0.8 (the examples of R181, R182). -/
def held : Voice :=
  { phase := 0#32, freq := 0x43DC0000#32, velgain := 0x3F800000#32, note := 69#7, active := true
    env := { stage := .sustain, level := 0x3F4CCCCD#32, attack := 0x3C23D70A#32, decay := 0x3DCCCCCD#32, sustain := 0x3F4CCCCD#32,
             release := 0x3E4CCCCD#32, arate := 0x3B149B93#32, drate := 0x383E37C5#32, rrate := 0#32 } }

/-- A prepared engine with one held voice. -/
def playing : State := { prep with voices := prep.voices.set 0 held }

/-- The slot of R203's example. -/
def slot3 : PadSlot := ⟨true, 0#32, 2000#32, 1#32, 0x2A#32⟩

/-- Pad 3 loaded as in R203's example, on a prepared engine; pad voice 0 plays it. -/
def loaded : State :=
  { playing with
    pads := playing.pads.set 3 slot3
    padVoices := playing.padVoices.set 0 ⟨3#3, 1536#32, 0x3F59999A#32⟩
    padNext := 1#5 }

/-- The same as a command from port P1. -/
def onP1 (s : State) : State := { s with curPort := .p1 }

/-- A state with a recorded fault. -/
def faulted : State := { prep with err := ⟨0x8#32, 0x3#32, 0x200#32, 0x08000000#32⟩ }

/-- The loader has staged R203's example. -/
def staged : State := { loaded with staging := ⟨5#32, 0#32, 2000#32, 1#32, 0x2A#32⟩ }

/-! ### One or two examples per command -/

theorem test_nop : run .p1 0#64 faulted = faulted := by decide +kernel
/-- R256's example -/
theorem test_prepare : run .p0 0x01000200472C4400#64 State.reset = prep := by decide +kernel
/-- a rate of -0.0 faults, and the engine keeps its configuration (R256, R296) -/
theorem test_prepare_minus_zero : run .p0 0x0100020080000000#64 prep =
    { prep with err := ⟨0x10#32, 0x4#32, 0x80000000#32, 0x01000200#32⟩ } := by decide +kernel
theorem test_release : run .p0 0x0200000000000000#64 playing = { prep with prepared := false } := by decide +kernel
/-- R296's example: `RENDER 512` before any `PREPARE` -/
theorem test_render_unprepared : run .p0 0x0800000000000200#64 State.reset =
    { State.reset with err := ⟨0x8#32, 0x3#32, 0x200#32, 0x08000000#32⟩ } := by decide +kernel
/-- R271's example: the first frame of `NOTE_ON 69, 1.0` on both channels -/
theorem test_render_first_frame :
    (let t := run .p0 0x0800000000000001#64 (run .p0 0x104500003F800000#64 prep)
     (t.outWord 0 0, t.outWord 1 0, t.outCount)) = (0xB9D989AB#32, 0xB9D989AB#32, 1#13) := by decide +kernel
/-- R178's example -/
theorem test_noteOn : run .p0 0x104500003F800000#64 prep =
    { prep with
      synthNext := 1#3
      voices := prep.voices.set 0
        { held with env := { held.env with stage := .attack, level := 0#32 } } } := by decide +kernel
/-- note 39 is pad 3 (R199), and pad voice 1 is at the cursor -/
theorem test_noteOn_pad : run .p0 0x102700003F59999A#64 loaded =
    { loaded with padNext := 2#5, padVoices := loaded.padVoices.set 1 ⟨3#3, 0#32, 0x3F59999A#32⟩ } := by decide +kernel
/-- R181's example -/
theorem test_noteOff : ((run .p0 0x1145000000000000#64 playing).voice 0) =
    { held with env := { held.env with stage := .release, rrate := 0x38BE37C6#32 } } := by decide +kernel
/-- R182's example -/
theorem test_noteCut : ((run .p0 0x1245000000000000#64 playing).voice 0) =
    { held with active := false, env := { held.env with stage := .idle, level := 0#32 } } := by decide +kernel
/-- R197's example, from port P1 on an unprepared engine, the cursor at 0 -/
theorem test_padTrig : run .p1 0x200300003F59999A#64 { State.reset with pads := loaded.pads } =
    { State.reset with
      pads := loaded.pads, padNext := 1#5
      padVoices := State.reset.padVoices.set 0 ⟨3#3, 0#32, 0x3F59999A#32⟩ } := by decide +kernel
/-- R203's example, from port P1: the voice that played the old sample stops -/
theorem test_padLoad : run .p1 0x2103000000000000#64 { staged with pads := State.reset.pads } =
    { staged with
      pads := State.reset.pads.set 3 slot3
      padVoices := loaded.padVoices.set 0 ⟨3#3, 0xFFFFFFFF#32, 0x3F59999A#32⟩, loadOk1 := true } := by decide +kernel
/-- index 8 fails and clears the flag of the port (R209) -/
theorem test_padLoad_bad_index : run .p0 0x2108000000000000#64 { staged with loadOk0 := true } = { staged with loadOk0 := false } := by
  decide +kernel
/-- R205's example -/
theorem test_padClear : run .p1 0x2203000000000000#64 loaded =
    { loaded with
      pads := State.reset.pads
      padVoices := loaded.padVoices.set 0 ⟨3#3, 0xFFFFFFFF#32, 0x3F59999A#32⟩ } := by decide +kernel
/-- `WRREG LOWPASS_CUTOFF, 50.0` stores 100.0 (R277) -/
theorem test_wrreg_saturates : (run .p0 0x3000110042480000#64 State.reset).regs.lowpassCutoff = 0x42C80000#32 := by decide +kernel
/-- R279's example: `PM_ADDR = 5`, `WRREG PM_DATA, 0.5` -/
theorem test_wrreg_pmData :
    (let t := run .p1 0x300021003F000000#64 staged
     (t.pm, t.staging.pmAddr)) = ([(5, 0x3F000000#32)], 6#32) := by decide +kernel
/-- R278's example, `RDREG STATUS` after a `PREPARE` -/
theorem test_rdreg_status : run .p0 0x3100010000000000#64 prep = { prep with rq0 := [0x00000001#32] } := by decide +kernel
/-- an unmapped address pushes a zero word and faults (R305) -/
theorem test_rdreg_unmapped :
    (let t := run .p1 0x3101050000000000#64 State.reset
     (t.rq1, t.err.error, t.err.errfirst)) = ([0#32], 0x40#32, 0x106#32) := by decide +kernel

/-! ### Arithmetic, envelope, oscillator and chain: examples of the rules -/

/-- R11: `floor32` toward minus infinity, and a clamp keeps a NaN -/
theorem test_helpers : floor32 0xBF000000#32 = 0xBF800000#32 ∧ frac 0x40200000#32 = 0x3F000000#32 ∧
    fclamp 0x7FC00000#32 fZero fOne = 0x7FC00000#32 := by decide +kernel
/-- R9: an invalid operation gives the canonical NaN, a division by zero an infinity, subnormals are kept -/
theorem test_float_corners : fsub 0x7F800000#32 0x7F800000#32 = 0x7FC00000#32 ∧ fdiv 0xBF800000#32 0#32 = 0xFF800000#32 ∧
    fmul 0x00800000#32 0x3F000000#32 = 0x00400000#32 ∧ fadd 0x7F7FFFFF#32 0x7F7FFFFF#32 = 0x7F800000#32 := by decide +kernel
/-- the rates of R141's example -/
theorem test_rates : attackRate 0x3C23D70A#32 0x472C4400#32 = 0x3B149B93#32 ∧
    decayRate 0x3DCCCCCD#32 0x3F4CCCCD#32 0x472C4400#32 = 0x383E37C5#32 := by decide +kernel
/-- R149's example -/
theorem test_release_sample :
    (envNextSample { held.env with stage := .release, rrate := 0x38BE37C6#32 }).level = 0x3F4CC6DB#32 := by decide +kernel
/-- the examples of R161, R163 and R165 -/
theorem test_oscillator : phaseInc 0x43DC0000#32 0x472C4400#32 = 0x3C2377EE#32 ∧ saw 0x3C2377EE#32 = 0xBF7AE441#32 ∧
    phaseAdvance 0x3C2377EE#32 0x3C2377EE#32 = 0x3CA377EE#32 := by decide +kernel
/-- R162: notes 0, 69 and 127 -/
theorem test_freq : freqTable 0 = 0x4102D013#32 ∧ freqTable 69 = 0x43DC0000#32 ∧ freqTable 127 = 0x4643FF6A#32 := by decide +kernel
/-- a row of R221's table and of R222's -/
theorem test_width : midOf 0x3F800000#32 = 0x3F3A2E8C#32 ∧ sideOf 0x3F800000#32 = 0x3E8BA2E9#32 ∧
    widthLeft 0x3F3A2E8C#32 0x3E8BA2E9#32 0x3F000000#32 0x3E800000#32 = 0x3F1D1746#32 ∧
    widthRight 0x3F3A2E8C#32 0x3E8BA2E9#32 0x3F000000#32 0x3E800000#32 = 0x3EF45D18#32 := by decide +kernel
/-- the row (1000, 44100) of R233's table -/
theorem test_coef : coefRbj 0x447A0000#32 0x472C4400#32 =
    ⟨0x3B96DD23#32, 0x3C16DD23#32, 0x3B96DD23#32, 0xBFE648CB#32, 0x3F51487E#32⟩ := by decide +kernel
/-- R236's example with those coefficients -/
theorem test_biquad : (filterRow ⟨0x3B96DD23#32, 0x3C16DD23#32, 0x3B96DD23#32, 0xBFE648CB#32, 0x3F51487E#32⟩ Biquad.zero
    [0x3F800000#32, 0#32, 0#32]).1 = [0x3B96DD23#32, 0x3C8F495B#32, 0x3D0455A2#32] := by decide +kernel
/-- a row of R240's table -/
theorem test_reverb_params : reverbParamsOf 0x3F000000#32 =
    ⟨0x3ED9999A#32, 0x3E666666#32, 0x3F600000#32, 0x3F266666#32, 0x3F400000#32, 0#32⟩ := by decide +kernel
/-- a float operand of the assembler is the literal rounded once (R124, R10) -/
theorem test_asm_float : (FloatOperand.decimal false 85 100).bits = 0x3F59999A#32 := by decide +kernel

/-! ### The invariants hold of the playing state, and of it with commands queued -/

/-- The playing state with one command in each queue. -/
def queued : State := { loaded with cq0 := [0#64], cq1 := [0x3100010000000000#64] }

theorem test_spec_legal : Params.spec.Legal := by decide
theorem test_loaded_shape : ShapeInv loaded := ⟨by decide, rfl, rfl, rfl, by decide, rfl, rfl⟩
theorem test_loaded_settled : VoicesSettled loaded := by
  unfold VoicesSettled Voice.settled
  decide +kernel
theorem test_loaded_ranged : RangeInv loaded where
  prepared := by unfold PreparedInv; decide +kernel
  regs := fun r => by cases r <;> decide +kernel
  voices := by
    intro v hv
    have h : ∀ v ∈ loaded.voices, inUnitOpen v.phase = true ∧ nonNeg v.freq = true ∧ inUnit v.env.level = true ∧
        inUnit v.env.sustain = true ∧ nonNeg v.env.attack = true ∧ nonNeg v.env.decay = true ∧ nonNeg v.env.release = true ∧
        nonNeg v.env.arate = true ∧ nonNeg v.env.drate = true ∧ nonNeg v.env.rrate = true := by decide +kernel
    obtain ⟨a, b, c, d, e, f, g, i, j, k⟩ := h v hv
    exact ⟨a, b, c, d, e, f, g, i, j, k⟩
theorem test_loaded_pads : PadInv loaded where
  params := test_spec_legal
  slots := by unfold PadSlot.sound; decide +kernel
  voices := by unfold PadVoice.sound; decide +kernel
theorem test_loaded_mem : MemInv { loaded with pm := [(5, 0x3F000000#32)] } := ⟨by decide, by decide, by decide +kernel⟩
theorem test_faulted_error : ErrorInv faulted := by
  refine ⟨by decide, fun h => absurd h (by decide), fun _ => ⟨.notPrepared, .p0, by decide, by decide⟩⟩

/-! ### States and operands that meet the hypotheses of each statement, the ends of each range among them -/

theorem test_witness_DecodeOfEncodeIsTheCommand :
    (Instr.prepare (2 ^ 24 - 1) 0#32).wellFormed = true ∧ (Instr.render (2 ^ 32 - 1)).wellFormed = true ∧
    (Instr.noteOn 127 15 0#32).wellFormed = true ∧ (Instr.padTrig 255 0#32).wellFormed = true ∧
    (Instr.wrreg 65535 0#32).wellFormed = true := by decide
theorem test_witness_DecodedWordIsItsOwnEncoding : decode 0xFFFFFFFFFFFFFFFF#64 = .error .unknownOpcode ∧
    decode 0x31FFFF0000000000#64 = .ok (.rdreg 65535) := by decide
theorem test_witness_IllegalWordsAreTheUnmatchedOnes :
    (⟨.padLoad, 0x2100000000000000#64, 0xFF00FFFFFFFFFFFF#64⟩ : OpcodeRow) ∈ opcodeTable ∧
    0x21FF000000000000#64 &&& 0xFF00FFFFFFFFFFFF#64 = 0x2100000000000000#64 := by decide
theorem test_witness_StepRunsTheDecodedCommand :
    decode (queued.cq0.headD 1#64) = .ok .nop ∧ decode (queued.cq1.headD 1#64) = .ok (.rdreg 1) ∧
    loaded.cq0 = [] ∧ loaded.cq1 = [] := by decide
/-- One command in P0's queue, one in P1's, and none: each step answers a next state. -/
theorem test_witness_StepTakesOneCommandInOrder :
    step (hostPush .p0 0#64 loaded) = .next loaded ∧ step (hostPush .p1 0#64 loaded) = .next loaded ∧
    step loaded = .next loaded :=
  ⟨next_eq _ _ (by decide +kernel) (by decide +kernel), next_eq _ _ (by decide +kernel) (by decide +kernel),
    next_eq _ _ (by decide +kernel) (by decide +kernel)⟩
theorem test_witness_IllegalWordOnlyRecordsTheFault :
    decode 1#64 = .error .mustBeZero ∧ decode { loaded with curCmd := 1#64 }.curCmd = .error .mustBeZero ∧
    { loaded with cq0 := [1#64] }.cq0 = 1#64 :: [] ∧ { loaded with cq1 := [1#64] }.cq1 = 1#64 :: [] := by decide
theorem test_witness_FaultEntryRecordsTheFault :
    loaded.err.error = 0#32 ∧ faulted.err.error ≠ 0#32 ∧ Reg.ofAddr loaded.params 0x000D = none := by decide
theorem test_witness_RealTimeCommandsFaultOnP1 :
    (onP1 loaded).curPort = .p1 ∧ exec .release (onP1 loaded) = .next (stateOf (exec .release (onP1 loaded))) ∧
    (onP1 loaded).err.error.getLsbD 2 = false ∧ (stateOf (exec .release (onP1 loaded))).err.error.getLsbD 2 = true :=
  ⟨rfl, rfl, rfl, by decide +kernel⟩
theorem test_witness_UnpreparedEngineFaults :
    State.reset.curPort = .p0 ∧ State.reset.prepared = false ∧ isNaN 0x7F800000#32 = false := by decide
theorem test_witness_UnusableOperandsFault :
    loaded.curPort = .p0 ∧ loaded.prepared = true ∧ isNaN 0x7F800001#32 = true ∧ isFinite 0x7F800000#32 = false ∧
    fgt 0x80000000#32 fZero = false ∧ loaded.params.hwMaxBlock < 4097 := by decide
theorem test_witness_OversizedBlockFaults :
    loaded.curPort = .p0 ∧ loaded.prepared = true ∧ loaded.maxBlock.toNat < 513 ∧ loaded.params.Legal ∧ PreparedInv loaded :=
  ⟨rfl, rfl, by decide, test_spec_legal, test_loaded_ranged.prepared⟩
/-- The holes of R305 and two read-only addresses. -/
theorem test_witness_UnmappedAndReadOnlyFault :
    (∀ a ∈ [0x000D, 0x0014, 0x001C, 0x0022, 0x0028, 0x0048, 0x0105, 0x0140, 0x020E, 0x0280, 0x0303, 0x0320, 0xA000, 0xFFFF],
      Reg.ofAddr Params.spec a = none) ∧
    Reg.ofAddr Params.spec 0x0000 = some .id ∧ Reg.id.writable = false ∧
    Reg.ofAddr Params.spec 0x9FFF = some (.out 1 4095) ∧ (Reg.out 1 4095).writable = false := by decide
theorem test_witness_PadMemoryRangeFaults :
    { loaded with staging := { loaded.staging with pmAddr := 0x01000000#32 } }.params.padMemWords ≤
      { loaded with staging := { loaded.staging with pmAddr := 0x01000000#32 } }.staging.pmAddr.toNat := by decide
theorem test_witness_ErrorRecordIsStickyAndSound : step faulted = .next faulted ∧ faulted.err.error ≠ 0#32 ∧ ErrorInv faulted :=
  ⟨next_eq _ _ (by decide +kernel) (by decide +kernel), by decide, test_faulted_error⟩
theorem test_witness_NopChangesNothing : (hostPush .p0 0#64 loaded).cq0 = [0#64] ∧ (hostPush .p1 0#64 loaded).cq1 = [0#64] ∧
    ((0x0000000000000001#64 : Cmd).extractLsb' 56 8).toNat = 0 ∧ (1#64 : Cmd) ≠ 0#64 := by decide
/-- The smallest subnormal rate, and both ends of the block size. -/
theorem test_witness_PrepareConfiguresAndClears :
    loaded.curPort = .p0 ∧ isFinite 1#32 = true ∧ fgt 1#32 fZero = true ∧ 1 ≤ loaded.params.hwMaxBlock ∧ loaded.params.hwMaxBlock = 4096 := by
  decide
theorem test_witness_ReleaseClears : loaded.curPort = .p0 := rfl
/-- The notes on either side of the pad range. -/
theorem test_witness_NoteOnTakesTheFirstFreeVoice :
    loaded.curPort = .p0 ∧ loaded.prepared = true ∧ isNaN 0xFF800000#32 = false ∧ (35 < 36 ∨ 43 < 35) ∧ (44 < 36 ∨ 43 < 44) ∧
    loaded.voices.length = 8 ∧ 115 + 12 < 128 ∧ Params.spec.freq = .table := by decide
/-- A positive and a zero time for each of attack and decay. -/
theorem test_witness_StartedEnvelopeHoldsTheRegisters :
    fgt ParamRegs.atReset.envAttack fZero = true ∧ fgt ParamRegs.atReset.envDecay fZero = true ∧
    fgt { ParamRegs.atReset with envAttack := 0#32 }.envAttack fZero = false ∧
    fgt { ParamRegs.atReset with envDecay := 0#32 }.envDecay fZero = false := by decide
theorem test_witness_NoteOnInPadRangeTriggersThePad :
    loaded.curPort = .p0 ∧ loaded.prepared = true ∧ isNaN 0#32 = false ∧ 36 ≤ 36 ∧ 43 ≤ 43 ∧ (loaded.pad (39 - 36)).loaded = true ∧
    (loaded.pad (36 - 36)).loaded = false := by decide
theorem test_witness_NoteOffReleasesEveryMatchingVoice :
    loaded.curPort = .p0 ∧ loaded.prepared = true ∧ (69 < 36 ∨ 43 < 69) ∧ (loaded.voice 0).active = true ∧
    (loaded.voice 0).note.toNat = 69 := by decide
theorem test_witness_NoteCutSilencesEveryMatchingVoice :
    loaded.curPort = .p0 ∧ loaded.prepared = true ∧ (44 < 36 ∨ 43 < 44) ∧ 36 ≤ 43 := by decide
theorem test_witness_PadTrigTakesTheCursorVoice : isNaN 0x80000000#32 = false ∧ 7 < 8 ∧ (loaded.pad 3).loaded = true := by decide
/-- A load that fits, and one that is one word too long. -/
theorem test_witness_PadLoadCommitsOrOnlyClearsTheFlag :
    (1 ≤ min staged.staging.frames.toNat staged.params.padCapFrames ∧
      0 + 16777216 * 1 ≤ staged.params.padMemWords) ∧ ¬1 + 16777216 * 1 ≤ staged.params.padMemWords := by decide
theorem test_witness_ParameterWriteSaturates : isNaN 0x7F800001#32 = true ∧ isNaN 0x7F800000#32 = false := by decide
theorem test_witness_PadMemoryWriteStoresOneWord :
    staged.staging.pmAddr.toNat < staged.params.padMemWords ∧ (0x00FFFFFF#32).toNat < staged.params.padMemWords := by decide
/-- Legal parameters, whole arrays, and the last entry of each window. -/
theorem test_witness_RegisterReadPushesTheValue :
    loaded.params.Legal ∧ loaded.voices.length = 8 ∧ loaded.padVoices.length = loaded.params.pv ∧ 1 < loaded.params.nch ∧
    7 < loaded.params.pv ∧ 4095 < loaded.params.hwMaxBlock ∧ staged.staging.pmAddr.toNat < staged.params.padMemWords :=
  ⟨test_spec_legal, rfl, rfl, by decide, by decide, by decide, by decide⟩
theorem test_witness_RegisterMapIsTheTable : Reg.ofAddr Params.spec 0x027D = some (.voice 7 13) ∧ Params.spec.Legal ∧ 0xFFFF < 0x10000 := by
  decide
theorem test_witness_RenderCompletesAndSetsTheChain :
    PadInv loaded ∧ loaded.curPort = .p0 ∧ loaded.prepared = true ∧ 512 ≤ loaded.maxBlock.toNat :=
  ⟨test_loaded_pads, rfl, rfl, by decide⟩
/-- The playing state with one channel and a free reverb. -/
def lone : State :=
  { loaded with params := { Params.spec with nch := 1, reverb := .free }, flt := [Biquad.zero], out := [[]] }
/-- One frame of the playing state, with a voice and a pad voice active, completes; with one channel and a free reverb too. -/
theorem test_witness_RenderWritesExactlyTheBlock :
    exec (.render 1) loaded = .next (stateOf (exec (.render 1) loaded)) ∧ loaded.params.nch = 2 ∧ loaded.params.reverb = .bypass ∧
    loaded.curPort = .p0 ∧ loaded.prepared = true ∧ 1 ≤ loaded.maxBlock.toNat ∧
    exec (.render 1) lone = .next (stateOf (exec (.render 1) lone)) ∧ lone.params.nch = 1 ∧ lone.params.reverb = .free :=
  ⟨next_eq _ _ (by decide +kernel) rfl, rfl, rfl, rfl, rfl, by decide, next_eq _ _ (by decide +kernel) rfl, rfl, rfl⟩
theorem test_witness_RenderAdvancesActiveVoices :
    exec (.render 1) loaded = .next (stateOf (exec (.render 1) loaded)) ∧ (loaded.voice 0).active = true ∧
    (loaded.voice 7).active = false ∧ 7 < loaded.voices.length :=
  ⟨next_eq _ _ (by decide +kernel) rfl, by decide, by decide, by decide⟩
theorem test_witness_SynthSumIsInVoiceOrder : 1 < 2 ∧ 511 < 512 ∧ (loaded.voices.map (fun v => v.active)).head? = some true := by decide
/-- At frame 1536 of 2000 a block of 463 frames leaves the voice active, one of 464 ends it. -/
theorem test_witness_RenderAdvancesPadVoices :
    0 ≤ (loaded.padVoice 0).pos.toInt ∧ (loaded.padVoice 0).pos.toInt + 463 < 2000 ∧ 2000 ≤ (loaded.padVoice 0).pos.toInt + 464 ∧
    (loaded.padVoice 1).pos.toInt < 0 ∧ 0 < loaded.padVoices.length := by decide
theorem test_witness_PadSumIsInVoiceOrder :
    1 < loaded.params.nch ∧ (clearMix 2 4).length = loaded.params.nch ∧ ∀ row ∈ clearMix 2 4, row.length = 4 := by decide
theorem test_witness_WidthAtZeroAtmosphereIsTheSum :
    isFinite (fsub 0x3F800000#32 0x3F800000#32) = true ∧ fadd 0x3F800000#32 0x3F800000#32 ≠ 0x80000000#32 := by decide +kernel
theorem test_witness_EffectiveCutoffIsClamped :
    ParamReg.lowpassCutoff.legal 0x42C80000#32 = true ∧ ParamReg.lowpassCutoff.legal 0x469C4000#32 = true ∧
    ParamReg.atmosphere.legal 0x3F800000#32 = true ∧ ParamReg.atmosphere.legal 0#32 = true := by decide
/-- Voice 0 plays on after the first block, voice 1 is inactive. -/
theorem test_witness_SplitBlockGivesTheSameAudio :
    ShapeInv loaded ∧ VoicesSettled loaded ∧ RangeInv loaded ∧ PadInv loaded ∧ loaded.curPort = .p0 ∧ loaded.prepared = true ∧
    (∀ v ∈ loaded.voices, v.active = true → isFinite v.velgain = true) ∧ 1 + 511 ≤ loaded.maxBlock.toNat ∧
    ((renderBlock loaded 1).voice 0).active = true ∧ (loaded.voice 1).active = false :=
  ⟨test_loaded_shape, test_loaded_settled, test_loaded_ranged, test_loaded_pads, rfl, rfl, by decide, by decide, by decide +kernel, rfl⟩
/-- A tie, and operands of each class: a NaN, finite values, infinities of both signs. -/
theorem test_witness_RoundingIsToNearestEven :
    0 < 2 ∧ roundMag 3 2 < 0x7F800000 ∧ 1 < 0x7F800000 ∧ 1 ≠ roundMag 3 2 ∧ isNaN 0xFFFFFFFF#32 = true ∧
    isFinite 0x7F7FFFFF#32 = true ∧ isFinite 0x80000001#32 = true ∧ isInf 0x7F800000#32 = true ∧ isInf 0xFF800000#32 = true := by
  decide +kernel
/-- Overflow (R9): half a last place above the largest finite value is infinity, anything less is not. -/
theorem test_overflow : fadd 0x7F7FFFFF#32 0x73000000#32 = 0x7F800000#32 ∧ fadd 0x7F7FFFFF#32 0x72FFFFFF#32 = 0x7F7FFFFF#32 := by
  decide +kernel
theorem test_witness_SawStaysInRange : inUnitOpen 0#32 = true ∧ inUnitOpen 0x3F7FFFFF#32 = true := by decide
/-- A sum below 1, a sum of exactly 1, and one in [1, 2). -/
theorem test_witness_PhaseAdvanceStaysInUnit :
    inUnitOpen 0x3F7FFFFF#32 = true ∧ nonNeg 0x7F800000#32 = true ∧ flt (fadd 0x3F000000#32 0#32) fOne = true ∧
    fadd 0x3F000000#32 0x3F000000#32 = fOne ∧ fle fOne (fadd 0x3F000000#32 0x3F400000#32) = true ∧
    flt (fadd 0x3F000000#32 0x3F400000#32) fTwo = true := by decide +kernel
theorem test_witness_EnvelopeLevelStaysInUnit :
    inUnit held.env.level = true ∧ inUnit held.env.sustain = true ∧ nonNeg held.env.arate = true ∧ nonNeg held.env.drate = true ∧
    nonNeg held.env.rrate = true ∧ ParamReg.envSustain.legal 0x3F800000#32 = true := by decide
/-- A sample on either side of the end of each ramp. -/
theorem test_witness_EnvelopeSampleFollowsItsStage :
    fge (fadd 0#32 0x3B149B93#32) fOne = false ∧ fge (fadd 0x3F7F6BB7#32 0x3B149B93#32) fOne = true ∧
    fle (fsub fOne 0x383E37C5#32) 0x3F4CCCCD#32 = false ∧ fle (fsub 0x3F4CCCCD#32 0x383E37C5#32) 0x3F4CCCCD#32 = true ∧
    fle (fsub 0x3F4CCCCD#32 0x38BE37C6#32) fZero = false ∧ fle (fsub 0x38BE37C6#32 0x38BE37C6#32) fZero = true ∧
    fgt 0x3DCCCCCD#32 fZero = true ∧ fgt 0#32 fZero = false := by decide +kernel
theorem test_witness_PadPoolIsRoundRobin :
    ShapeInv loaded ∧ 3 < 8 ∧ (loaded.pad 3).loaded = true ∧ (((padTrigger 3 fOne)^[loaded.params.pv] loaded).pad 3).loaded = true :=
  ⟨test_loaded_shape, by decide, rfl, by decide +kernel⟩
theorem test_witness_SampleIsConsumedExactly : 1 ≤ 512 ∧ 1 ≤ slot3.frames.toNat ∧ slot3.frames.toNat < 2 ^ 31 ∧ 3 * 512 < slot3.frames.toNat ∧
    (slot3.frames.toNat + 512 - 1) / 512 = 4 := by decide
/-- Commands that change a pad slot, a voice, the staging registers and the error registers. -/
theorem test_witness_OnlyTheNamedCommandsWrite :
    (exec (.padClear 3) loaded = .next (stateOf (exec (.padClear 3) loaded)) ∧ (stateOf (exec (.padClear 3) loaded)).pads ≠ loaded.pads) ∧
    (exec (.noteCut 69 0 0#32) loaded = .next (stateOf (exec (.noteCut 69 0 0#32) loaded)) ∧
      ((stateOf (exec (.noteCut 69 0 0#32) loaded)).voice 0).env.level ≠ (loaded.voice 0).env.level) ∧
    (exec (.wrreg 0x0024 1#32) loaded = .next (stateOf (exec (.wrreg 0x0024 1#32) loaded)) ∧
      (stateOf (exec (.wrreg 0x0024 1#32) loaded)).staging.base ≠ loaded.staging.base) ∧
    exec (.rdreg 0x000D) loaded = .next (stateOf (exec (.rdreg 0x000D) loaded)) ∧
      (stateOf (exec (.rdreg 0x000D) loaded)).err ≠ loaded.err :=
  ⟨⟨rfl, by decide +kernel⟩, ⟨rfl, by decide +kernel⟩, ⟨rfl, by decide +kernel⟩, rfl, by decide +kernel⟩
theorem test_witness_PortOneCannotTouchTheEngine : exec .nop (onP1 loaded) = .next (onP1 loaded) ∧ (onP1 loaded).curPort = .p1 := ⟨rfl, rfl⟩
theorem test_witness_StepNeverStops : PadInv loaded := test_loaded_pads
/-- The hypotheses of the invariants together, on a state with a voice and a pad voice active and a command queued. -/
theorem test_witness_invariants :
    ShapeInv loaded ∧ VoicesSettled loaded ∧ PadInv loaded ∧ loaded.params.Legal ∧ RangeInv loaded ∧ PreparedInv loaded ∧
    MemInv { loaded with pm := [(5, 0x3F000000#32)] } ∧ PreparedInv { loaded with pm := [(5, 0x3F000000#32)] } ∧
    (∃ t, step (hostPush .p0 0x2203000000000000#64 loaded) = .next t ∧ t.pads ≠ loaded.pads) :=
  ⟨test_loaded_shape, test_loaded_settled, test_loaded_pads, test_spec_legal, test_loaded_ranged, test_loaded_ranged.prepared,
    test_loaded_mem, test_loaded_ranged.prepared, run .p0 0x2203000000000000#64 loaded, next_eq _ _ (by decide +kernel) rfl,
    by decide +kernel⟩
theorem test_witness_ActiveVoicesGrowByAtMostOne : loaded.voices.length = 8 ∧ exec .nop loaded = .next loaded := ⟨rfl, rfl⟩
theorem test_witness_ResetMeetsEveryInvariant : { Params.spec with nch := 1, pv := 32, hwMaxBlock := 1 }.Legal := by decide
theorem test_witness_ResetLeavesTheValuesOfTheTable : Reg.ofAddr Params.spec 0x0301 = some (.padVoice 0 1) := by decide

end Sys2Proof.Tests
end

