-- ==== Sys2Proof/Proofs/Reset.lean ====
section
/-!
The reset table of R50. What a register reads after reset depends on the register alone, not on the open parameters
(`regValue_resetWith`), and through the register map of R40 it is the word the table gives for the address (`resetValue_ofAddr`).
-/
namespace Sys2Proof.Machine

/-! ### The register map, inverted -/

/-- A mapped address of a window names the entry and the word it falls on. -/
theorem regWindow_eq_some {off stride n used : Nat} {mk : Nat → Nat → Reg} {r : Reg} (h : regWindow off stride n used mk = some r) :
    r = mk (off / stride) (off % stride) := by
  unfold regWindow at h
  split at h
  · exact (Option.some.inj h).symm
  · cases h

/-- Every mapped address is a register below `0x30` or an entry of the chain, filter, pad, voice, pad voice or output window (R40). -/
theorem ofAddr_cases {p : Params} {a : Nat} {r : Reg} (h : Reg.ofAddr p a = some r) :
    (a < 0x30 ∧ regLow a = some r) ∨ (0x30 ≤ a ∧ a < 0x300 ∧
      ((∃ j, r = .chain j) ∨ (∃ c j, r = .flt c j) ∨ (∃ q j, r = .pad q j) ∨ (∃ k j, r = .voice k j))) ∨
    (0x300 ≤ a ∧ a < 0x8000 ∧ r = .padVoice ((a - 0x300) / 4) ((a - 0x300) % 4)) ∨ (0x8000 ≤ a ∧ ∃ c i, r = .out c i) := by
  unfold Reg.ofAddr at h
  split_ifs at h
  · exact .inl ⟨by assumption, h⟩
  · exact .inr (.inl ⟨by omega, by omega, .inl ⟨_, (Option.some.inj h).symm⟩⟩)
  · exact .inr (.inl ⟨by omega, by omega, .inr (.inl ⟨_, _, regWindow_eq_some h⟩)⟩)
  · exact .inr (.inl ⟨by omega, by omega, .inr (.inr (.inl ⟨_, _, regWindow_eq_some h⟩))⟩)
  · exact .inr (.inl ⟨by omega, by omega, .inr (.inr (.inr ⟨_, _, regWindow_eq_some h⟩))⟩)
  · exact .inr (.inr (.inl ⟨by omega, by omega, regWindow_eq_some h⟩))
  · exact .inr (.inr (.inr ⟨by omega, _, _, regWindow_eq_some h⟩))

/-! ### What each register reads after reset -/

/-- The reset value of a register (R50). `PM_DATA`, whose word is unspecified, stands with +0.0. -/
def Reg.resetValue : Reg → Word
  | .id => Config.idValue
  | .param r => r.read ParamRegs.atReset
  | .padVoice _ j => padVoiceWord PadVoice.idle j
  | _ => 0#32

/-- No flag set is the mask 0. -/
@[simp] theorem maskOf_replicate_false (n : Nat) : maskOf (List.replicate n false) = 0 := by
  induction n with
  | zero => rfl
  | succ n ih => simp [List.replicate_succ, maskOf, bitOf, ih]

/-- Reading a list that holds only the default answers the default, in and out of range. -/
theorem getD_replicate_default {α : Type} (n k : Nat) (x : α) : (List.replicate n x).getD k x = x := by
  rw [List.getD_eq_getElem?_getD, List.getElem?_replicate]
  split <;> rfl

theorem resetWith_voice (p : Params) (k : Nat) : (State.resetWith p).voice k = Voice.zero := getD_replicate_default 8 k _
theorem resetWith_pad (p : Params) (q : Nat) : (State.resetWith p).pad q = PadSlot.empty := getD_replicate_default 8 q _
theorem resetWith_padVoice (p : Params) (m : Nat) : (State.resetWith p).padVoice m = PadVoice.idle := getD_replicate_default p.pv m _
theorem resetWith_filter (p : Params) (c : Nat) : (State.resetWith p).filter c = Biquad.zero := getD_replicate_default p.nch c _

theorem resetWith_outWord (p : Params) (c i : Nat) : (State.resetWith p).outWord c i = 0#32 :=
  congrArg (Memory.readOut · i) (getD_replicate_default p.nch c [])

theorem resetWith_padActiveWord (p : Params) : padActiveWord (State.resetWith p) = 0#32 := by
  have idle : PadVoice.idle.active = false := by decide
  have none_active : (State.resetWith p).padVoices.map PadVoice.active = List.replicate p.pv false := by
    rw [← idle]
    exact List.map_replicate
  rw [padActiveWord, none_active, maskOf_replicate_false]

/-! Every word of a cleared record reads 0. -/

theorem voiceWord_zero (j : Nat) : voiceWord Voice.zero j = 0#32 := by unfold voiceWord; split <;> rfl
theorem padWord_empty (j : Nat) : padWord PadSlot.empty j = 0#32 := by unfold padWord; split <;> rfl
theorem filterWord_zero (j : Nat) : filterWord Biquad.zero j = 0#32 := by unfold filterWord; split <;> rfl
theorem chainWord_zero (j : Nat) : chainWord Chain.zero j = 0#32 := by unfold chainWord; split <;> rfl

/-- Of an idle pad voice `POS` alone is not 0: it is -1 (R50). -/
theorem padVoiceWord_idle (j : Nat) : padVoiceWord PadVoice.idle j = if j = 1 then 0xFFFFFFFF#32 else 0#32 := by
  unfold padVoiceWord
  split
  case h_4 _ _ h _ => rw [if_neg h]
  all_goals rfl

/-- What a register reads after reset is fixed by the register; the open parameters do not matter. -/
theorem regValue_resetWith (p : Params) (r : Reg) (h : r ≠ .pmData) : regValue (State.resetWith p) r = r.resetValue := by
  cases r with
  | pmData => exact absurd rfl h
  | padActive => exact resetWith_padActiveWord p
  | chain j => exact chainWord_zero j
  | flt c j => exact (congrArg (filterWord · j) (resetWith_filter p c)).trans (filterWord_zero j)
  | pad q j => exact (congrArg (padWord · j) (resetWith_pad p q)).trans (padWord_empty j)
  | voice k j => exact (congrArg (voiceWord · j) (resetWith_voice p k)).trans (voiceWord_zero j)
  | padVoice m j => exact congrArg (padVoiceWord · j) (resetWith_padVoice p m)
  | out c i => exact resetWith_outWord p c i
  | _ => rfl

/-! ### The table by address -/

/-- The word the table of R50 gives for a mapped address other than that of `PM_DATA`. -/
def resetWord (a : Nat) : Word :=
  if a = 0x0000 then 0x48390007#32 else if a = 0x0010 then 0x3F400000#32 else if a = 0x0011 then 0x469C4000#32
  else if a = 0x0013 then 0x3F000000#32 else if a = 0x0018 then 0x3C23D70A#32 else if a = 0x0019 then 0x3DCCCCCD#32
  else if a = 0x001A then 0x3F4CCCCD#32 else if a = 0x001B then 0x3E4CCCCD#32
  else if 0x0300 ≤ a ∧ a < 0x8000 ∧ a % 4 = 1 then 0xFFFFFFFF#32 else 0#32

/-- The registers at fixed addresses, one by one. -/
theorem regLow_resetValue : ∀ a < 0x30, ∀ r ∈ regLow a, r.resetValue = resetWord a := by decide

/-- From the chain registers up, the `POS` words alone are not 0. -/
theorem resetWord_of_le {a : Nat} (h : 0x30 ≤ a) :
    resetWord a = if 0x0300 ≤ a ∧ a < 0x8000 ∧ a % 4 = 1 then 0xFFFFFFFF#32 else 0#32 := by
  unfold resetWord
  iterate 8 rw [if_neg (by omega)]

/-- The register at an address has the reset value that the table gives for the address. -/
theorem resetValue_ofAddr {p : Params} {a : Nat} {r : Reg} (h : Reg.ofAddr p a = some r) : r.resetValue = resetWord a := by
  rcases ofAddr_cases h with ⟨ha, hr⟩ | ⟨hlo, hhi, hr⟩ | ⟨hlo, hhi, rfl⟩ | ⟨hlo, c, i, rfl⟩
  · exact regLow_resetValue a ha r hr
  · rw [resetWord_of_le hlo, if_neg (by omega)]
    rcases hr with ⟨j, rfl⟩ | ⟨c, j, rfl⟩ | ⟨q, j, rfl⟩ | ⟨k, j, rfl⟩ <;> rfl
  · have word_is_pos : (a - 0x300) % 4 = 1 ↔ 0x0300 ≤ a ∧ a < 0x8000 ∧ a % 4 = 1 := by omega
    rw [resetWord_of_le (by omega), Reg.resetValue, padVoiceWord_idle, if_congr word_is_pos rfl rfl]
  · rw [resetWord_of_le (by omega), if_neg (by omega)]
    rfl

/-- Settles O60: an address is taken to its register, whose reset value is the table's word; the parts without an address are fields
of `State.resetWith`. -/
theorem resetLeavesTheValuesOfTheTable : Obligations.ResetLeavesTheValuesOfTheTable := by
  refine ⟨fun p a r hmap hdata => ?_, fun p => ⟨rfl, rfl, rfl, rfl, rfl, rfl⟩, rfl⟩
  exact (regValue_resetWith p r hdata).trans (resetValue_ofAddr hmap)

end Sys2Proof.Machine
end

section
/-!
The worked encodings of R127 and the pseudo-instructions of R125. Two rows of the opcode table that one word selects are the same row
(`opcodeTable_disjoint`), so a word that selects a row decodes to the operands of that row (`decode_of_selects`), and the encoding of a
command decodes to the operands of the command's own row (`decode_encode`).
-/
namespace Sys2Proof.Machine

/-! ### Decoding by the row a word selects (R119) -/

/-- The patterns of two different rows differ in a bit that both masks keep. -/
theorem opcodeTable_patterns_differ : ∀ r₁ ∈ opcodeTable, ∀ r₂ ∈ opcodeTable,
    r₁.pattern &&& r₂.mask = r₂.pattern &&& r₁.mask → r₁ = r₂ := by decide

/-- No word selects two rows of the table. -/
theorem opcodeTable_disjoint {r₁ r₂ : OpcodeRow} {w : Cmd} (h₁ : r₁ ∈ opcodeTable) (h₂ : r₂ ∈ opcodeTable)
    (hw₁ : w &&& r₁.mask = r₁.pattern) (hw₂ : w &&& r₂.mask = r₂.pattern) : r₁ = r₂ := by
  refine opcodeTable_patterns_differ r₁ h₁ r₂ h₂ ?_
  calc r₁.pattern &&& r₂.mask
      _ = w &&& r₁.mask &&& r₂.mask := by rw [hw₁]
      _ = w &&& r₂.mask &&& r₁.mask := by rw [BitVec.and_assoc, BitVec.and_comm r₁.mask, BitVec.and_assoc]
      _ = r₂.pattern &&& r₁.mask := by rw [hw₂]

/-- The decoder's search finds the one row that a word selects. -/
theorem rowOf_of_selects {r : OpcodeRow} {w : Cmd} (hr : r ∈ opcodeTable) (hw : w &&& r.mask = r.pattern) : rowOf w = some r := by
  cases hfind : rowOf w with
  | none => exact absurd (decide_eq_true hw) (List.find?_eq_none.mp hfind r hr)
  | some q =>
    have hq : w &&& q.mask = q.pattern := of_decide_eq_true (List.find?_some (p := (OpcodeRow.selects · w)) hfind)
    rw [opcodeTable_disjoint (List.mem_of_find?_eq_some hfind) hr hq hw]

/-- A word that selects a row decodes to the operands of that row. -/
theorem decode_of_selects {r : OpcodeRow} {w : Cmd} (hr : r ∈ opcodeTable) (hw : w &&& r.mask = r.pattern) :
    decode w = .ok (operandsOf r.op w) := by
  rw [decode, rowOf_of_selects hr hw]

/-- Every command's encoding matches the row of its opcode. -/
theorem encode_matches_row (i : Instr) : Laws.EncodingRow.Statement i := by
  cases i with
  | nop => exact Laws.EncodingRow.nop
  | prepare maxBlock rate => exact Laws.EncodingRow.prepare maxBlock rate
  | release => exact Laws.EncodingRow.release
  | render count => exact Laws.EncodingRow.render count
  | noteOn note chan vel => exact Laws.EncodingRow.noteOn note chan vel
  | noteOff note chan vel => exact Laws.EncodingRow.noteOff note chan vel
  | noteCut note chan vel => exact Laws.EncodingRow.noteCut note chan vel
  | padTrig pad vel => exact Laws.EncodingRow.padTrig pad vel
  | padLoad pad => exact Laws.EncodingRow.padLoad pad
  | padClear pad => exact Laws.EncodingRow.padClear pad
  | wrreg addr data => exact Laws.EncodingRow.wrreg addr data
  | rdreg addr => exact Laws.EncodingRow.rdreg addr

/-- An encoding decodes, whether or not the command is well formed, to the command's own kind with the operands the fields hold. -/
theorem decode_encode (i : Instr) : decode (encode i) = .ok (operandsOf (Laws.EncodingRow.opcode i) (encode i)) := by
  obtain ⟨r, hr, hop, hmatch⟩ := encode_matches_row i
  rw [decode_of_selects hr hmatch, hop]

/-! ### The worked encodings (R127) -/

/-- The fields of a word `w`, read as the operands of the command `i` that it encodes, give `i` back. -/
theorem decode_eq_of_fields {i : Instr} {w : Cmd} (henc : encode i = w) (hfields : operandsOf (Laws.EncodingRow.opcode i) w = i) :
    decode w = .ok i := by
  subst henc
  rw [decode_encode, hfields]

/-- Settles O3: for each example the words and the fields are compared, and `decode_eq_of_fields` gives the decoding. -/
theorem workedEncodingsHold : Obligations.WorkedEncodingsHold := by
  intro x hx
  have words_and_fields : encode x.1 = x.2 ∧ operandsOf (Laws.EncodingRow.opcode x.1) x.2 = x.1 := by
    revert x
    decide
  obtain ⟨henc, hfields⟩ := words_and_fields
  exact ⟨decode_eq_of_fields henc hfields, henc⟩

/-! ### The pseudo-instructions (R125) -/

/-- Zero over anything is a whole number of units, so nothing is rounded. -/
@[simp] theorem roundNearestEven_zero (den : Nat) : roundNearestEven 0 den = 0 := by
  simp [roundNearestEven]

@[simp] theorem roundMag_zero (den : Nat) : roundMag 0 den = 0 := by
  simp [roundMag]

/-- The literal `0.0` assembles to `+0.0`, however its denominator is written (R124). -/
theorem floatOperand_bits_zero (den : Nat) : (FloatOperand.decimal false 0 den).bits = fZero := by
  rw [FloatOperand.bits, Nat.zero_mul, roundMag_zero]
  rfl

/-- `NOTE_OFF note, 0.0, chan` is the same command as with the velocity left out (R124). -/
theorem noteOff_zero_velocity (note : Nat) (chan : Option Nat) (den : Nat) :
    (AsmCmd.noteOff note (some (.decimal false 0 den)) chan).command = (AsmCmd.noteOff note none chan).command :=
  congrArg (Instr.noteOff note (chan.getD 0)) (floatOperand_bits_zero den)

/-- Settles O5: each row of R125 by the register address of its name; the row of `KEY_OFF` also needs that `0.0` assembles to `+0.0`. -/
theorem pseudoInstructionsExpand : Obligations.PseudoInstructionsExpand := by
  refine ⟨fun v => ?param, fun a => ?pmseek, fun d => ?pmw, ?pmr, ?rdstat, fun n v => ?keyOn, fun n => ?keyOff⟩
  case param => exact ⟨rfl, rfl, rfl, rfl, rfl, rfl, rfl, rfl⟩
  case keyOff => exact (noteOff_zero_velocity n (some 0) 1).symm
  case pmseek | pmw | pmr | rdstat | keyOn => rfl

end Sys2Proof.Machine
end

section
/-!
The envelope generator of spec/40_envelope.md, operation by operation. Each operation gets one equation per case of its rule, and the
statements about what a started envelope holds (R141, R142) and about one sample (R145 to R149) are put together from these.
-/
namespace Sys2Proof.Machine

/-! ### `EnvNoteOn` (R142) -/

theorem envNoteOn_of_attack {e : Env} (ha : fgt e.attack fZero = true) : envNoteOn e = { e with stage := .attack } := if_pos ha

theorem envNoteOn_of_decay {e : Env} (ha : fgt e.attack fZero = false) (hd : fgt e.decay fZero = true) :
    envNoteOn e = { e with level := fOne, stage := .decay } := by
  simp [envNoteOn, ha, hd]

theorem envNoteOn_of_sustain {e : Env} (ha : fgt e.attack fZero = false) (hd : fgt e.decay fZero = false) :
    envNoteOn e = { e with level := e.sustain, stage := .sustain } := by
  simp [envNoteOn, ha, hd]

/-- A start changes the stage and the level of an envelope only. -/
theorem envNoteOn_frame (e : Env) : envNoteOn e = { e with stage := (envNoteOn e).stage, level := (envNoteOn e).level } := by
  unfold envNoteOn
  split_ifs <;> rfl

@[simp] theorem envNoteOn_attack (e : Env) : (envNoteOn e).attack = e.attack := by rw [envNoteOn_frame]
@[simp] theorem envNoteOn_decay (e : Env) : (envNoteOn e).decay = e.decay := by rw [envNoteOn_frame]
@[simp] theorem envNoteOn_sustain (e : Env) : (envNoteOn e).sustain = e.sustain := by rw [envNoteOn_frame]
@[simp] theorem envNoteOn_release (e : Env) : (envNoteOn e).release = e.release := by rw [envNoteOn_frame]
@[simp] theorem envNoteOn_arate (e : Env) : (envNoteOn e).arate = e.arate := by rw [envNoteOn_frame]
@[simp] theorem envNoteOn_drate (e : Env) : (envNoteOn e).drate = e.drate := by rw [envNoteOn_frame]
@[simp] theorem envNoteOn_rrate (e : Env) : (envNoteOn e).rrate = e.rrate := by rw [envNoteOn_frame]

/-! ### `EnvConfigure` (R141, R152) -/

@[simp] theorem envConfigure_stage (r : ParamRegs) (fs : F32) (e : Env) : (envConfigure r fs e).stage = e.stage := rfl
@[simp] theorem envConfigure_level (r : ParamRegs) (fs : F32) (e : Env) : (envConfigure r fs e).level = e.level := rfl
@[simp] theorem envConfigure_attack (r : ParamRegs) (fs : F32) (e : Env) : (envConfigure r fs e).attack = r.envAttack := rfl
@[simp] theorem envConfigure_decay (r : ParamRegs) (fs : F32) (e : Env) : (envConfigure r fs e).decay = r.envDecay := rfl
@[simp] theorem envConfigure_sustain (r : ParamRegs) (fs : F32) (e : Env) : (envConfigure r fs e).sustain = r.envSustain := rfl
@[simp] theorem envConfigure_release (r : ParamRegs) (fs : F32) (e : Env) : (envConfigure r fs e).release = r.envRelease := rfl
@[simp] theorem envConfigure_arate (r : ParamRegs) (fs : F32) (e : Env) :
    (envConfigure r fs e).arate = attackRate r.envAttack fs := rfl
@[simp] theorem envConfigure_drate (r : ParamRegs) (fs : F32) (e : Env) :
    (envConfigure r fs e).drate = decayRate r.envDecay r.envSustain fs := rfl
@[simp] theorem envConfigure_rrate (r : ParamRegs) (fs : F32) (e : Env) : (envConfigure r fs e).rrate = e.rrate := rfl

theorem attackRate_of_pos {attack : F32} (fs : F32) (h : fgt attack fZero = true) :
    attackRate attack fs = guardRate (fdiv fOne (fmul attack fs)) := if_pos h

theorem attackRate_of_not_pos {attack : F32} (fs : F32) (h : fgt attack fZero = false) : attackRate attack fs = fZero := by
  simp [attackRate, h]

theorem decayRate_of_pos {decay : F32} (sustain fs : F32) (h : fgt decay fZero = true) :
    decayRate decay sustain fs = guardRate (fdiv (fsub fOne sustain) (fmul decay fs)) := if_pos h

theorem decayRate_of_not_pos {decay : F32} (sustain fs : F32) (h : fgt decay fZero = false) : decayRate decay sustain fs = fZero := by
  simp [decayRate, h]

/-- Settles O21: the registers and the rates are those of `EnvConfigure`, which the start keeps; stage and level are those of the start's
three cases. -/
theorem startedEnvelopeHoldsTheRegisters : Obligations.StartedEnvelopeHoldsTheRegisters := by
  intro r fs e u
  have hattack : u.attack = r.envAttack := envNoteOn_attack _
  have hdecay : u.decay = r.envDecay := envNoteOn_decay _
  have hsustain : u.sustain = r.envSustain := envNoteOn_sustain _
  have hrelease : u.release = r.envRelease := envNoteOn_release _
  have hrrate : u.rrate = e.rrate := envNoteOn_rrate _
  have harate : u.arate = attackRate r.envAttack fs := envNoteOn_arate _
  have hdrate : u.drate = decayRate r.envDecay r.envSustain fs := envNoteOn_drate _
  refine ⟨hattack, hdecay, hsustain, hrelease, hrrate, fun ha => ?_, fun ha => ?_, fun hd => ?_, fun hd => ?_, fun ha hd => ?_,
    fun ha hd => ?_⟩
  · have hu : u = { envConfigure r fs e with stage := .attack } := envNoteOn_of_attack ha
    exact ⟨by rw [hu], by rw [hu, envConfigure_level], harate.trans (attackRate_of_pos fs ha)⟩
  · exact harate.trans (attackRate_of_not_pos fs ha)
  · exact hdrate.trans (decayRate_of_pos _ fs hd)
  · exact hdrate.trans (decayRate_of_not_pos _ fs hd)
  · have hu : u = { envConfigure r fs e with level := fOne, stage := .decay } := envNoteOn_of_decay ha hd
    exact ⟨by rw [hu], by rw [hu]⟩
  · have hu : u = { envConfigure r fs e with level := r.envSustain, stage := .sustain } := envNoteOn_of_sustain ha hd
    exact ⟨by rw [hu], by rw [hu]⟩

/-! ### `EnvNextSample` (R145 to R149) -/

theorem envNextSample_of_idle {e : Env} (h : e.stage = .idle) : envNextSample e = { e with level := fZero } := by
  simp [envNextSample, h]

theorem envNextSample_of_attack {e : Env} (h : e.stage = .attack) : envNextSample e = envAttackStep e := by
  simp [envNextSample, h]

theorem envNextSample_of_decay {e : Env} (h : e.stage = .decay) : envNextSample e = envDecayStep e := by
  simp [envNextSample, h]

theorem envNextSample_of_sustain {e : Env} (h : e.stage = .sustain) : envNextSample e = { e with level := e.sustain } := by
  simp [envNextSample, h, envSustainStep]

theorem envNextSample_of_release {e : Env} (h : e.stage = .release) : envNextSample e = envReleaseStep e := by
  simp [envNextSample, h]

theorem envAttackStep_below {e : Env} (h : fge (fadd e.level e.arate) fOne = false) :
    envAttackStep e = { e with level := fadd e.level e.arate } := by
  simp [envAttackStep, h]

theorem envAttackStep_top_decay {e : Env} (h : fge (fadd e.level e.arate) fOne = true) (hd : fgt e.decay fZero = true) :
    envAttackStep e = { e with level := fOne, stage := .decay } := by
  simp [envAttackStep, h, hd]

/-- A zero decay time is skipped in the same sample. -/
theorem envAttackStep_top_sustain {e : Env} (h : fge (fadd e.level e.arate) fOne = true) (hd : fgt e.decay fZero = false) :
    envAttackStep e = { e with level := e.sustain, stage := .sustain } := by
  simp [envAttackStep, h, hd]

theorem envDecayStep_above {e : Env} (h : fle (fsub e.level e.drate) e.sustain = false) :
    envDecayStep e = { e with level := fsub e.level e.drate } := by
  simp [envDecayStep, h]

theorem envDecayStep_end {e : Env} (h : fle (fsub e.level e.drate) e.sustain = true) :
    envDecayStep e = { e with level := e.sustain, stage := .sustain } := by
  simp [envDecayStep, h]

theorem envReleaseStep_above {e : Env} (h : fle (fsub e.level e.rrate) fZero = false) :
    envReleaseStep e = { e with level := fsub e.level e.rrate } := by
  simp [envReleaseStep, h]

theorem envReleaseStep_end {e : Env} (h : fle (fsub e.level e.rrate) fZero = true) :
    envReleaseStep e = { e with level := fZero, stage := .idle } := by
  simp [envReleaseStep, h]

/-- Settles O47: the sample of each stage is that stage's step, and the step's cases are the rule's. -/
theorem envelopeSampleFollowsItsStage : Obligations.EnvelopeSampleFollowsItsStage := by
  intro e
  refine ⟨envNextSample_of_idle, fun hs => ?attack, fun hs => ?decay, envNextSample_of_sustain, fun hs => ?release⟩
  case attack =>
    rw [envNextSample_of_attack hs]
    exact ⟨envAttackStep_below, envAttackStep_top_decay, envAttackStep_top_sustain⟩
  case decay =>
    rw [envNextSample_of_decay hs]
    exact ⟨envDecayStep_above, envDecayStep_end⟩
  case release =>
    rw [envNextSample_of_release hs]
    exact ⟨envReleaseStep_above, envReleaseStep_end⟩

end Sys2Proof.Machine
end

section
/-!
The two stops of spec/42_voice_pool.md R180, `NOTE_OFF` and `NOTE_CUT`. On P0 with the engine prepared each is `SynthStop` outside the
pad range and nothing inside it (`stop_of_synth_note`, `stop_of_pad_note`), and `SynthStop` maps the voices that hold the note by
`voiceStop` (`synthStop_eq`).
-/
namespace Sys2Proof.Machine

/-- `SynthStop` writes the voices only (R180). -/
theorem synthStop_eq (note : Nat) (tail : Bool) (s : State) :
    synthStop note tail s =
      { s with voices := s.voices.map (fun v => if v.active = true ∧ v.note.toNat = note then voiceStop s.fs tail v else v) } := by
  simp [synthStop]

/-- Either stop of a note outside the pad range. -/
theorem stop_of_synth_note {s : State} {note : Nat} (tail : Bool) (hp : s.curPort = .p0) (hq : s.prepared = true)
    (hnote : note < 36 ∨ 43 < note) :
    onP0 s (whenPrepared s (if canHandle note then .next (synthStop note tail s) else .next s)) = .next (synthStop note tail s) := by
  rw [onP0_p0 _ _ hp, whenPrepared_yes _ _ hq, if_pos ((canHandle_iff note).2 hnote)]

/-- Either stop of a note in the pad range. -/
theorem stop_of_pad_note {s : State} {note : Nat} (tail : Bool) (hp : s.curPort = .p0) (hq : s.prepared = true)
    (hlo : 36 ≤ note) (hhi : note ≤ 43) :
    onP0 s (whenPrepared s (if canHandle note then .next (synthStop note tail s) else .next s)) = .next s := by
  have hpad : ¬canHandle note = true := by rw [canHandle_iff]; omega
  rw [onP0_p0 _ _ hp, whenPrepared_yes _ _ hq, if_neg hpad]

/-! ### One voice -/

/-- Without a tail the voice is idle and silent at once (R144). -/
theorem voiceStop_cut (fs : F32) (v : Voice) :
    voiceStop fs false v = { v with active := false, env := { v.env with stage := .idle, level := fZero } } := rfl

theorem envNoteOff_of_idle {fs : F32} {e : Env} (h : e.stage = .idle) : envNoteOff fs e = e := if_pos h

theorem envNoteOff_of_release {fs : F32} {e : Env} (h : e.stage ≠ .idle) (hr : fgt e.release fZero = true) :
    envNoteOff fs e = { e with rrate := releaseRate e.level e.release fs, stage := .release } := by
  simp [envNoteOff, h, hr]

/-- A zero release time ends the note at once. -/
theorem envNoteOff_of_no_release {fs : F32} {e : Env} (h : e.stage ≠ .idle) (hr : ¬fgt e.release fZero = true) :
    envNoteOff fs e = envReset e := by
  simp [envNoteOff, h, hr]

/-- With a tail the voice stays in the pool exactly while its envelope is not Idle (R143, R150, R180). -/
theorem voiceStop_tail (fs : F32) (v : Voice) (hv : v.active = true) :
    voiceStop fs true v =
      if v.env.stage = .idle then { v with active := false }
      else if fgt v.env.release fZero = true then
        { v with env := { v.env with stage := .release, rrate := releaseRate v.env.level v.env.release fs } }
      else { v with active := false, env := { v.env with stage := .idle, level := fZero } } := by
  have hstop : voiceStop fs true v = { v with env := envNoteOff fs v.env, active := envIsActive (envNoteOff fs v.env) } := rfl
  rw [hstop]
  split_ifs with hidle hrel
  · simp [envNoteOff_of_idle hidle, envIsActive, hidle]
  · simp [envNoteOff_of_release hidle hrel, envIsActive, hv]
  · simp [envNoteOff_of_no_release hidle hrel, envIsActive, envReset]

/-! ### The commands -/

/-- Settles O23: outside the pad range the command is `SynthStop` with a tail, one voice at a time by `voiceStop_tail`. -/
theorem noteOffReleasesEveryMatchingVoice : Obligations.NoteOffReleasesEveryMatchingVoice := by
  refine ⟨fun s note chan vel hp hq hnote => ?_, fun s note chan vel hp hq hlo hhi => stop_of_pad_note true hp hq hlo hhi⟩
  refine (stop_of_synth_note true hp hq hnote).trans ?_
  have hvoice : (fun v : Voice => if v.active = true ∧ v.note.toNat = note then voiceStop s.fs true v else v) = _ :=
    funext fun v => ite_congr rfl (fun hmatch => voiceStop_tail s.fs v hmatch.1) (fun _ => rfl)
  rw [synthStop_eq, hvoice]
  rfl

/-- Settles O24: outside the pad range the command is `SynthStop` without a tail, which resets each envelope it finds. -/
theorem noteCutSilencesEveryMatchingVoice : Obligations.NoteCutSilencesEveryMatchingVoice := by
  refine ⟨fun s note chan vel hp hq hnote => ?_, fun s note chan vel hp hq hlo hhi => stop_of_pad_note false hp hq hlo hhi⟩
  refine (stop_of_synth_note false hp hq hnote).trans ?_
  simp only [synthStop_eq, voiceStop_cut]

end Sys2Proof.Machine
end

section
/-!
Where sums and differences of binary32 values lie (spec/00_scope.md R9). Rounding never carries a magnitude past the next power of two
(`roundMag_le_of_lt`), so it keeps a difference that is at most 1 at most 1; with the sign of the rounded sum this gives the two facts
that the range of the envelope turns on, `fadd_nonNeg` and `fsub_le_one`.
-/
namespace Sys2Proof.Machine

/-! ### Orders and classes through `fKey` -/

theorem nonNeg_iff (x : F32) : nonNeg x = true ↔ isNaN x = false ∧ 0 ≤ fKey x := by
  have hzero : isNaN fZero = false ∧ fKey fZero = 0 := by decide
  simp [nonNeg, fle_iff, hzero]

theorem fle_one_iff (x : F32) : fle x fOne = true ↔ isNaN x = false ∧ fKey x ≤ 0x3F800000 := by
  have hone : isNaN fOne = false ∧ fKey fOne = 0x3F800000 := by decide
  simp [fle_iff, hone]

theorem inUnit_iff (x : F32) : inUnit x = true ↔ nonNeg x = true ∧ fle x fOne = true := by
  simp [inUnit, nonNeg]

/-- A number that is not at or below another is at or above it. -/
theorem fle_of_fle_eq_false {a b : F32} (ha : isNaN a = false) (hb : isNaN b = false) (h : fle a b = false) : fle b a = true :=
  (fle_total a b ha hb).resolve_left (by simp [h])

theorem isFinite_or_isInf {x : F32} (h : isNaN x = false) : isFinite x = true ∨ isInf x = true := by
  rcases float_classes x with ⟨hn, -, -⟩ | ⟨-, hi, -⟩ | ⟨-, -, hf⟩
  · simp [h] at hn
  · exact .inr hi
  · exact .inl hf

theorem isNaN_of_isInf {x : F32} (h : isInf x = true) : isNaN x = false := by
  rw [isInf_iff] at h
  simp [isNaN, h]

theorem classes_of_isFinite {x : F32} (h : isFinite x = true) : isNaN x = false ∧ isInf x = false := by
  rw [isFinite_iff] at h
  simp only [isNaN, isInf, decide_eq_false_iff_not]
  omega

theorem fKey_fMake (neg : Bool) {bits : Nat} (h : bits < 2 ^ 31) : fKey (fMake neg bits) = if neg then -(bits : Int) else bits := by
  rw [fKey, fSign_fMake neg bits h, fMagBits_fMake neg bits h]

/-- The place of a number that is not negative is its magnitude bits, for `-0.0` too. -/
theorem fMagBits_of_fKey_nonneg {x : F32} (h : 0 ≤ fKey x) : (fMagBits x : Int) = fKey x := by
  unfold fKey at h ⊢
  split_ifs at h ⊢
  · omega
  · rfl

/-- The value of a number that is not negative is its magnitude, for `-0.0` too. -/
theorem fScaled_of_fKey_nonneg {x : F32} (h : 0 ≤ fKey x) : fScaled x = fMag x := by
  unfold fKey at h
  unfold fScaled
  split_ifs at h ⊢
  · have hbits : fMagBits x = 0 := by omega
    simp [fMag, hbits]
  · rfl

theorem fSign_of_isInf_of_fKey_nonneg {x : F32} (hi : isInf x = true) (h : 0 ≤ fKey x) : fSign x = false := by
  rw [isInf_iff] at hi
  unfold fKey at h
  split_ifs at h with hs
  · omega
  · simpa using hs

/-- A number at most 1.0 has a value of at most one. -/
theorem fMag_le_one {x : F32} (h : fMagBits x ≤ 0x3F800000) : fMag x ≤ 2 ^ 149 := by
  have hfrac : fMagBits x % 2 ^ 23 < 2 ^ 23 := Nat.mod_lt _ (by decide)
  simp only [fMag]
  split_ifs
  · omega
  · rcases Nat.lt_or_ge (fMagBits x / 2 ^ 23) 127 with hlt | hge
    · calc (2 ^ 23 + fMagBits x % 2 ^ 23) * 2 ^ (fMagBits x / 2 ^ 23 - 1)
          _ ≤ 2 ^ 24 * 2 ^ 125 := Nat.mul_le_mul (by omega) (Nat.pow_le_pow_right (by decide) (by omega))
          _ = 2 ^ 149 := by decide
    · have hbits : fMagBits x = 0x3F800000 := by omega
      rw [hbits]
      decide

/-! ### Negation -/

@[simp] theorem fMagBits_fNeg (x : F32) : fMagBits (fNeg x) = fMagBits x := by
  have h : (fNeg x).setWidth 31 = x.setWidth 31 := by simp [fNeg, BitVec.setWidth_xor]
  simpa [fMagBits] using congrArg BitVec.toNat h

@[simp] theorem fSign_fNeg (x : F32) : fSign (fNeg x) = !fSign x := by
  have hmsb (y : F32) : fSign y = y.msb := (BitVec.msb_eq_decide y).symm
  have hbit : (0x80000000#32).msb = true := by decide
  simp [hmsb, fNeg, BitVec.msb_xor, hbit]

@[simp] theorem isNaN_fNeg (x : F32) : isNaN (fNeg x) = isNaN x := by simp [isNaN]
@[simp] theorem isInf_fNeg (x : F32) : isInf (fNeg x) = isInf x := by simp [isInf]
@[simp] theorem isFinite_fNeg (x : F32) : isFinite (fNeg x) = isFinite x := by simp [isFinite]

@[simp] theorem fKey_fNeg (x : F32) : fKey (fNeg x) = -fKey x := by
  cases h : fSign x <;> simp [fKey, h]

@[simp] theorem fScaled_fNeg (x : F32) : fScaled (fNeg x) = -fScaled x := by
  have hmag : fMag (fNeg x) = fMag x := by simp [fMag]
  cases h : fSign x <;> simp [fScaled, hmag, h]

/-! ### Rounding -/

theorem roundNearestEven_le (num den : Nat) : roundNearestEven num den ≤ num / den + 1 := by
  simp only [roundNearestEven]
  split_ifs <;> omega

/-- The unit in the last place is chosen so that at most 24 bits are kept before rounding. -/
theorem div_ulp_lt (num den : Nat) : num / (den * 2 ^ (Nat.log2 (num / den) - 23)) < 2 ^ 24 := by
  rw [← Nat.div_div_eq_div_mul, Nat.div_lt_iff_lt_mul (by positivity), ← Nat.pow_add]
  exact Nat.lt_of_lt_of_le Nat.lt_log2_self (Nat.pow_le_pow_right (by decide) (by omega))

/-- A magnitude below `2^(m+24)` units rounds to that power of two at most. -/
theorem roundMag_le_of_lt {num den m : Nat} (h : num / den < 2 ^ (m + 24)) : roundMag num den ≤ (m + 2) * 2 ^ 23 := by
  have hulp : Nat.log2 (num / den) - 23 ≤ m := by
    rcases Nat.eq_zero_or_pos (num / den) with h0 | hpos
    · simp [h0]
    · have := (Nat.log2_lt (by omega)).2 h
      omega
  have hround := roundNearestEven_le num (den * 2 ^ (Nat.log2 (num / den) - 23))
  have hkept := div_ulp_lt num den
  simp only [roundMag]
  omega

/-- A magnitude of at most one rounds to at most 1.0. -/
theorem roundMag_le_one {n : Nat} (h : n ≤ 2 ^ 149) : roundMag n 1 ≤ 0x3F800000 := by
  rcases Nat.lt_or_eq_of_le h with hlt | rfl
  · exact roundMag_le_of_lt (m := 125) (by simpa using hlt)
  · decide

theorem isNaN_roundSigned (v : Int) (den : Nat) : isNaN (roundSigned v den) = false := isNaN_fMake_roundMag _ _ _

theorem fKey_roundSigned (v : Int) (den : Nat) :
    fKey (roundSigned v den) = if v < 0 then -(roundMag v.natAbs den : Int) else roundMag v.natAbs den := by
  have hle := roundMag_le v.natAbs den
  rw [roundSigned, fKey_fMake _ (by omega)]
  simp

theorem fKey_roundSigned_nonneg {v : Int} (h : 0 ≤ v) (den : Nat) : 0 ≤ fKey (roundSigned v den) := by
  rw [fKey_roundSigned, if_neg (by omega)]
  omega

theorem fKey_roundSigned_le_one {v : Int} (h : v ≤ 2 ^ 149) : fKey (roundSigned v 1) ≤ 0x3F800000 := by
  rw [fKey_roundSigned]
  split_ifs with hneg
  · omega
  · have := roundMag_le_one (n := v.natAbs) (by omega)
    omega

/-! ### Sums -/

theorem fadd_of_isInf_left {a b : F32} (ha : isInf a = true) (hb : isNaN b = false) (hsign : isInf b = true → fSign a = fSign b) :
    fadd a b = a := by
  simpa [fadd, isNaN_of_isInf ha, hb, ha] using fun hi hne => absurd (hsign hi) hne

theorem fadd_of_isInf_right {a b : F32} (ha : isFinite a = true) (hb : isInf b = true) : fadd a b = b := by
  obtain ⟨hnan, hinf⟩ := classes_of_isFinite ha
  simp [fadd, hnan, hinf, isNaN_of_isInf hb, hb]

/-- The sum of two finite values is their exact sum rounded, up to the sign of a zero. -/
theorem fadd_of_isFinite {a b : F32} (ha : isFinite a = true) (hb : isFinite b = true) :
    isNaN (fadd a b) = false ∧ fKey (fadd a b) = fKey (roundSigned (fScaled a + fScaled b) 1) := by
  obtain ⟨hnana, hinfa⟩ := classes_of_isFinite ha
  obtain ⟨hnanb, hinfb⟩ := classes_of_isFinite hb
  have hadd : fadd a b =
      if fScaled a + fScaled b = 0 then fMake (fSign a && fSign b) 0 else roundSigned (fScaled a + fScaled b) 1 := by
    simp [fadd, hnana, hinfa, hnanb, hinfb]
  rw [hadd]
  split_ifs with h0
  · rw [h0]
    cases fSign a && fSign b <;> decide
  · exact ⟨isNaN_roundSigned _ _, rfl⟩

/-- The sum of two numbers that are not negative, infinity included, is one. -/
theorem fadd_nonNeg {a b : F32} (ha : nonNeg a = true) (hb : nonNeg b = true) : nonNeg (fadd a b) = true := by
  obtain ⟨hnana, hkeya⟩ := (nonNeg_iff a).1 ha
  obtain ⟨hnanb, hkeyb⟩ := (nonNeg_iff b).1 hb
  rcases isFinite_or_isInf hnana with hfina | hinfa
  · rcases isFinite_or_isInf hnanb with hfinb | hinfb
    · obtain ⟨hnan, hkey⟩ := fadd_of_isFinite hfina hfinb
      have hsum : 0 ≤ fScaled a + fScaled b := by
        rw [fScaled_of_fKey_nonneg hkeya, fScaled_of_fKey_nonneg hkeyb]
        omega
      exact (nonNeg_iff _).2 ⟨hnan, hkey ▸ fKey_roundSigned_nonneg hsum 1⟩
    · rwa [fadd_of_isInf_right hfina hinfb]
  · have hsign (hinfb : isInf b = true) : fSign a = fSign b := by
      rw [fSign_of_isInf_of_fKey_nonneg hinfa hkeya, fSign_of_isInf_of_fKey_nonneg hinfb hkeyb]
    rwa [fadd_of_isInf_left hinfa hnanb hsign]

/-- A number of [0, 1] less one that is not negative, infinity included, is at most 1, and so not a NaN. -/
theorem fsub_le_one {a b : F32} (ha : inUnit a = true) (hb : nonNeg b = true) : fle (fsub a b) fOne = true := by
  obtain ⟨ha0, ha1⟩ := (inUnit_iff a).1 ha
  obtain ⟨hnana, hkeya⟩ := (nonNeg_iff a).1 ha0
  obtain ⟨-, honea⟩ := (fle_one_iff a).1 ha1
  obtain ⟨hnanb, hkeyb⟩ := (nonNeg_iff b).1 hb
  have hbits : fMagBits a ≤ 0x3F800000 := by
    have := fMagBits_of_fKey_nonneg hkeya
    omega
  have hfina : isFinite a = true := (isFinite_iff a).2 (by omega)
  rw [fle_one_iff, fsub]
  rcases isFinite_or_isInf hnanb with hfinb | hinfb
  · obtain ⟨hnan, hkey⟩ := fadd_of_isFinite hfina ((isFinite_fNeg b).trans hfinb)
    have hdiff : fScaled a + fScaled (fNeg b) ≤ 2 ^ 149 := by
      have := fMag_le_one hbits
      rw [fScaled_fNeg, fScaled_of_fKey_nonneg hkeya, fScaled_of_fKey_nonneg hkeyb]
      omega
    exact ⟨hnan, hkey ▸ fKey_roundSigned_le_one hdiff⟩
  · rw [fadd_of_isInf_right hfina ((isInf_fNeg b).trans hinfb), isNaN_fNeg, fKey_fNeg]
    exact ⟨hnanb, by omega⟩

end Sys2Proof.Machine
end

section
/-!
The range of the level (spec/40_envelope.md R151): each operation leaves a level of [0, 1] in [0, 1]. Attack can only leave it above,
Decay and Release only below, and there the operation's own test catches it.
-/
namespace Sys2Proof.Machine

theorem inUnit_fZero : inUnit fZero = true := by decide

theorem inUnit_fOne : inUnit fOne = true := by decide

theorem isNaN_of_inUnit {x : F32} (h : inUnit x = true) : isNaN x = false := by
  obtain ⟨hnonneg, -⟩ := (inUnit_iff x).1 h
  exact ((nonNeg_iff x).1 hnonneg).1

/-- What a falling ramp leaves when it has not reached its floor: the floor is below, the level it fell from above. -/
theorem inUnit_fsub_of_above {level rate floor : F32} (hl : inUnit level = true) (hr : nonNeg rate = true) (hf : inUnit floor = true)
    (habove : fle (fsub level rate) floor = false) : inUnit (fsub level rate) = true := by
  have hle := fsub_le_one hl hr
  have hfloor : fle floor (fsub level rate) = true :=
    fle_of_fle_eq_false ((fle_one_iff _).1 hle).1 (isNaN_of_inUnit hf) habove
  exact (inUnit_iff _).2 ⟨fle_trans _ _ _ ((inUnit_iff floor).1 hf).1 hfloor, hle⟩

theorem inUnit_envAttackStep {e : Env} (hl : inUnit e.level = true) (hs : inUnit e.sustain = true) (hr : nonNeg e.arate = true) :
    inUnit (envAttackStep e).level = true := by
  cases htop : fge (fadd e.level e.arate) fOne with
  | false =>
    rw [envAttackStep_below htop]
    have hnonneg := fadd_nonNeg ((inUnit_iff _).1 hl).1 hr
    exact (inUnit_iff _).2 ⟨hnonneg, fle_of_fle_eq_false (isNaN_of_inUnit inUnit_fOne) ((nonNeg_iff _).1 hnonneg).1 htop⟩
  | true =>
    cases hd : fgt e.decay fZero with
    | true => rw [envAttackStep_top_decay htop hd]; exact inUnit_fOne
    | false => rw [envAttackStep_top_sustain htop hd]; exact hs

theorem inUnit_envDecayStep {e : Env} (hl : inUnit e.level = true) (hs : inUnit e.sustain = true) (hr : nonNeg e.drate = true) :
    inUnit (envDecayStep e).level = true := by
  cases hend : fle (fsub e.level e.drate) e.sustain with
  | false => rw [envDecayStep_above hend]; exact inUnit_fsub_of_above hl hr hs hend
  | true => rw [envDecayStep_end hend]; exact hs

theorem inUnit_envReleaseStep {e : Env} (hl : inUnit e.level = true) (hr : nonNeg e.rrate = true) :
    inUnit (envReleaseStep e).level = true := by
  cases hend : fle (fsub e.level e.rrate) fZero with
  | false => rw [envReleaseStep_above hend]; exact inUnit_fsub_of_above hl hr inUnit_fZero hend
  | true => rw [envReleaseStep_end hend]; exact inUnit_fZero

theorem inUnit_envNextSample {e : Env} (hl : inUnit e.level = true) (hs : inUnit e.sustain = true) (ha : nonNeg e.arate = true)
    (hd : nonNeg e.drate = true) (hr : nonNeg e.rrate = true) : inUnit (envNextSample e).level = true := by
  cases hstage : e.stage with
  | idle => rw [envNextSample_of_idle hstage]; exact inUnit_fZero
  | attack => rw [envNextSample_of_attack hstage]; exact inUnit_envAttackStep hl hs ha
  | decay => rw [envNextSample_of_decay hstage]; exact inUnit_envDecayStep hl hs hd
  | sustain => rw [envNextSample_of_sustain hstage]; exact hs
  | release => rw [envNextSample_of_release hstage]; exact inUnit_envReleaseStep hl hr

theorem inUnit_envNoteOn {e : Env} (hl : inUnit e.level = true) (hs : inUnit e.sustain = true) : inUnit (envNoteOn e).level = true := by
  cases ha : fgt e.attack fZero with
  | true => rw [envNoteOn_of_attack ha]; exact hl
  | false =>
    cases hd : fgt e.decay fZero with
    | true => rw [envNoteOn_of_decay ha hd]; exact inUnit_fOne
    | false => rw [envNoteOn_of_sustain ha hd]; exact hs

/-- A release keeps the level or, with a zero release time, silences it; the sustain ratio stays. -/
theorem envNoteOff_level_sustain (fs : F32) (e : Env) :
    ((envNoteOff fs e).level = e.level ∨ (envNoteOff fs e).level = fZero) ∧ (envNoteOff fs e).sustain = e.sustain := by
  unfold envNoteOff envReset
  split_ifs <;> simp

theorem inUnit_envNoteOff {e : Env} (fs : F32) (hl : inUnit e.level = true) : inUnit (envNoteOff fs e).level = true := by
  rcases (envNoteOff_level_sustain fs e).1 with h | h <;> rw [h]
  · exact hl
  · exact inUnit_fZero

/-- Settles O46, one operation at a time. The legal range of `ENV_SUSTAIN` is the unit interval itself. -/
theorem envelopeLevelStaysInUnit : Obligations.EnvelopeLevelStaysInUnit := by
  intro e hl hs ha hd hr
  refine ⟨inUnit_envNextSample hl hs ha hd hr, ?_, inUnit_envNoteOn hl hs, ?_, fun fs => ⟨inUnit_envNoteOff fs hl, ?_⟩,
    inUnit_fZero, hs, fun r fs hlegal => ⟨hl, hlegal⟩⟩
  · rwa [envNextSample_sustain]
  · rwa [envNoteOn_sustain]
  · rwa [(envNoteOff_level_sustain fs e).2]

end Sys2Proof.Machine
end

section
/-!
The synth's part of a frame (spec/41_oscillator_voice.md R169). The voices are rendered one after another, each over the whole block, yet
one entry of the mix depends on its own frame only: rendering a voice adds the voice's sample of that frame to the entry
(`voiceRender_getD`), so rendering them all is a fold of that addition over the voices (`synthRender_getD`).
-/
namespace Sys2Proof.Machine

/-- What one voice does to an entry of frame `i` of the mix: an active voice adds its sample (R164, R166). -/
def addVoiceSample (fs : F32) (i : Nat) (acc : F32) (v : Voice) : F32 :=
  if v.active then
    let u := (voiceStep fs)^[i] v
    fadd acc (voiceSample u.phase (envNextSample u.env).level v.velgain)
  else acc

/-- A row of the mix after one voice: the same samples go into every row. -/
theorem voiceRender_row (fs : F32) (n : Nat) (v : Voice) (mix : Mix) (c : Nat) :
    (voiceRender fs n v mix).2.getD c [] = if v.active then addInto (mix.getD c []) (voiceRun fs n v).1 else mix.getD c [] := by
  unfold voiceRender
  split_ifs
  · exact List.getD_map mix [] (addInto · (voiceRun fs n v).1)
  · rfl

theorem voiceRender_row_length (fs : F32) (n : Nat) (v : Voice) (mix : Mix) (c : Nat) :
    ((voiceRender fs n v mix).2.getD c []).length = (mix.getD c []).length := by
  rw [voiceRender_row]
  split_ifs
  · exact addInto_length _ _
  · rfl

/-- An entry of the mix after one voice. -/
theorem voiceRender_getD {n i c : Nat} (fs : F32) (v : Voice) {mix : Mix} (hi : i < n) (hrow : i < (mix.getD c []).length) :
    ((voiceRender fs n v mix).2.getD c []).getD i fZero = addVoiceSample fs i ((mix.getD c []).getD i fZero) v := by
  rw [voiceRender_row]
  unfold addVoiceSample
  split_ifs
  · rw [addInto_getD _ _ _ hrow, voiceRun_length, if_pos hi, voiceRun_getD fs n i v hi]
  · rfl

/-- An entry of the mix after all voices, whatever the mix held. -/
theorem synthRender_getD {n i c : Nat} (fs : F32) (vs : List Voice) {mix : Mix} (hi : i < n) (hrow : i < (mix.getD c []).length) :
    ((synthRender fs n vs mix).2.getD c []).getD i fZero = vs.foldl (addVoiceSample fs i) ((mix.getD c []).getD i fZero) := by
  induction vs generalizing mix with
  | nil => rfl
  | cons v vs ih =>
    have hrow' : i < ((voiceRender fs n v mix).2.getD c []).length := by rwa [voiceRender_row_length]
    calc ((synthRender fs n (v :: vs) mix).2.getD c []).getD i fZero
        _ = vs.foldl (addVoiceSample fs i) (((voiceRender fs n v mix).2.getD c []).getD i fZero) := ih hrow'
        _ = vs.foldl (addVoiceSample fs i) (addVoiceSample fs i ((mix.getD c []).getD i fZero) v) := by
          rw [voiceRender_getD fs v hi hrow]

theorem clearMix_getD {nch n c : Nat} (hc : c < nch) : (clearMix nch n).getD c [] = List.replicate n fZero := by
  rw [clearMix, List.getD_replicate _ hc]

/-- Settles O36: `synthRender_getD` from a mix of zeros. -/
theorem synthSumIsInVoiceOrder : Obligations.SynthSumIsInVoiceOrder := by
  intro fs n nch c i vs hc hi
  have hrow : i < ((clearMix nch n).getD c []).length := by rwa [clearMix_getD hc, List.length_replicate]
  have hzero : ((clearMix nch n).getD c []).getD i fZero = fZero := by rw [clearMix_getD hc, getD_replicate_default]
  refine (synthRender_getD fs vs hi hrow).trans ?_
  rw [hzero]
  rfl

end Sys2Proof.Machine
end

section
/-!
Where binary32 arithmetic is exact (spec/00_scope.md R9). A finite magnitude is `m` units of `2^k` with `m` below `2^24` (`fMag_eq`), and
rounding returns every such number as it is (`fMag_fMake_roundMag`); the patterns lie in the order of their values (`fKey_lt_iff`). So a
sum whose value is a finite magnitude, with either sign, is the exact sum (`fScaled_fadd_of_exact`). Taking whole units of 1.0 from a
magnitude, or keeping only them, needs no more bits than the magnitude has.
-/
namespace Sys2Proof.Machine

/-! ### The units of a magnitude -/

/-- The fields of a pattern: bits 30:0 are those of `m` units of `2^k`, where a unit above the smallest has all 24 bits in use. -/
theorem fMag_eq (x : F32) :
    ∃ m k, m < 2 ^ 24 ∧ (k = 0 ∨ 2 ^ 23 ≤ m) ∧ fMagBits x = k * 2 ^ 23 + m ∧ fMag x = m * 2 ^ k := by
  have hfrac : fMagBits x % 2 ^ 23 < 2 ^ 23 := Nat.mod_lt _ (by decide)
  rcases Nat.eq_zero_or_pos (fMagBits x / 2 ^ 23) with he | he
  · exact ⟨fMagBits x % 2 ^ 23, 0, by omega, .inl rfl, by omega, by simp only [fMag, if_pos he, Nat.pow_zero, Nat.mul_one]⟩
  · exact ⟨2 ^ 23 + fMagBits x % 2 ^ 23, fMagBits x / 2 ^ 23 - 1, by omega, .inr (by omega), by omega,
      by simp only [fMag, if_neg (Nat.pos_iff_ne_zero.1 he)]⟩

/-- Of two magnitudes in this form, the one with the lower pattern is the smaller. -/
theorem ulps_lt {m k m' k' : Nat} (hm : m < 2 ^ 24) (hm' : m' < 2 ^ 24) (hk : k = 0 ∨ 2 ^ 23 ≤ m) (hk' : k' = 0 ∨ 2 ^ 23 ≤ m')
    (h : k * 2 ^ 23 + m < k' * 2 ^ 23 + m') : m * 2 ^ k < m' * 2 ^ k' := by
  rcases Nat.lt_trichotomy k k' with hlt | rfl | hgt
  · calc m * 2 ^ k
        _ < 2 ^ 24 * 2 ^ k := Nat.mul_lt_mul_of_pos_right hm (by positivity)
        _ = 2 ^ 23 * 2 ^ (k + 1) := by ring
        _ ≤ m' * 2 ^ k' := Nat.mul_le_mul (by omega) (Nat.pow_le_pow_right (by decide) hlt)
  · exact Nat.mul_lt_mul_of_pos_right (by omega) (by positivity)
  · omega

theorem fMag_lt_of_fMagBits_lt {x y : F32} (h : fMagBits x < fMagBits y) : fMag x < fMag y := by
  obtain ⟨m, k, hm, hk, hbits, hmag⟩ := fMag_eq x
  obtain ⟨m', k', hm', hk', hbits', hmag'⟩ := fMag_eq y
  rw [hmag, hmag']
  exact ulps_lt hm hm' hk hk' (by omega)

theorem fMag_lt_iff (x y : F32) : fMag x < fMag y ↔ fMagBits x < fMagBits y := by
  refine ⟨fun h => ?_, fMag_lt_of_fMagBits_lt⟩
  rcases Nat.lt_trichotomy (fMagBits x) (fMagBits y) with hlt | heq | hgt
  · exact hlt
  · have : fMag x = fMag y := by simp only [fMag, heq]
    omega
  · have := fMag_lt_of_fMagBits_lt hgt
    omega

/-- The place of a number among the numbers is that of its value. -/
theorem fKey_lt_iff (x y : F32) : fKey x < fKey y ↔ fScaled x < fScaled y := by
  have hzero (z : F32) : 0 < fMag z ↔ 0 < fMagBits z := fMag_lt_iff fZero z
  have hx := hzero x
  have hy := hzero y
  have hxy := fMag_lt_iff x y
  have hyx := fMag_lt_iff y x
  unfold fKey fScaled
  split_ifs <;> omega

theorem fKey_le_iff (x y : F32) : fKey x ≤ fKey y ↔ fScaled x ≤ fScaled y := by
  have := fKey_lt_iff y x
  omega

theorem fKey_nonneg_iff (x : F32) : 0 ≤ fKey x ↔ 0 ≤ fScaled x := fKey_le_iff fZero x

@[simp] theorem fScaled_fZero : fScaled fZero = 0 := by decide
@[simp] theorem fScaled_fOne : fScaled fOne = 2 ^ 149 := by decide
@[simp] theorem fScaled_fTwo : fScaled fTwo = 2 ^ 150 := by decide

theorem flt_one_iff (x : F32) : flt x fOne = true ↔ isNaN x = false ∧ fScaled x < 2 ^ 149 := by
  have hone : isNaN fOne = false := by decide
  simp [flt_iff, hone, fKey_lt_iff]

theorem inUnitOpen_iff (x : F32) : inUnitOpen x = true ↔ isNaN x = false ∧ 0 ≤ fScaled x ∧ fScaled x < 2 ^ 149 := by
  have hsplit : inUnitOpen x = true ↔ nonNeg x = true ∧ flt x fOne = true := by simp [inUnitOpen, nonNeg]
  rw [hsplit, nonNeg_iff, fKey_nonneg_iff, flt_one_iff]
  tauto

/-- What is below a finite number and not negative is finite. -/
theorem isFinite_of_flt {x y : F32} (hx : 0 ≤ fKey x) (hlt : flt x y = true) : isFinite x = true := by
  obtain ⟨-, hy, hkey⟩ := (flt_iff x y).1 hlt
  have hbits := fMagBits_of_fKey_nonneg hx
  have hybits := fMagBits_of_fKey_nonneg (x := y) (by omega)
  simp only [isNaN, decide_eq_false_iff_not] at hy
  rw [isFinite_iff]
  omega

/-! ### Magnitudes that need no rounding -/

/-- A whole number of units of `2^-149` that binary32 holds: at most 24 bits, moved up within the range of finite values. -/
def IsExact (n : Nat) : Prop := ∃ m k, m < 2 ^ 24 ∧ k ≤ 253 ∧ n = m * 2 ^ k

/-- The 24 bits can be taken full, but for a number of smallest units. -/
theorem IsExact.normal {n : Nat} (h : IsExact n) : ∃ m k, m < 2 ^ 24 ∧ k ≤ 253 ∧ (k = 0 ∨ 2 ^ 23 ≤ m) ∧ n = m * 2 ^ k := by
  obtain ⟨m, k, hm, hk, rfl⟩ := h
  induction k generalizing m with
  | zero => exact ⟨m, 0, hm, hk, .inl rfl, rfl⟩
  | succ k ih =>
    rcases Nat.lt_or_ge m (2 ^ 23) with hlt | hge
    · obtain ⟨m', k', hm', hk', hnormal, heq⟩ := ih (2 * m) (by omega) (by omega)
      exact ⟨m', k', hm', hk', hnormal, heq ▸ by ring⟩
    · exact ⟨m, k + 1, hm, hk, .inr hge, rfl⟩

theorem isExact_fMag {x : F32} (h : isFinite x = true) : IsExact (fMag x) := by
  obtain ⟨m, k, hm, hnormal, hbits, hmag⟩ := fMag_eq x
  rw [isFinite_iff] at h
  exact ⟨m, k, hm, by omega, hmag⟩

/-- Twice a number below 1.0 is in range still. -/
theorem isExact_two_mul_fMag {x : F32} (h : fMag x < 2 ^ 149) : IsExact (2 * fMag x) := by
  obtain ⟨m, k, hm, hk, -, hmag⟩ := fMag_eq x
  refine ⟨m, k + 1, hm, ?_, by rw [hmag]; ring⟩
  by_contra hbig
  have : 2 ^ 23 * 2 ^ 253 ≤ m * 2 ^ k := Nat.mul_le_mul (by omega) (Nat.pow_le_pow_right (by decide) (by omega))
  omega

/-- Below a unit `2^b` and from it on: both parts of an exact number are exact. -/
theorem IsExact.mod_div {n : Nat} (h : IsExact n) (b : Nat) : IsExact (n % 2 ^ b) ∧ IsExact (n / 2 ^ b * 2 ^ b) := by
  obtain ⟨m, k, hm, hk, rfl⟩ := h
  rcases Nat.le_total k b with hle | hge
  · have hunit : 2 ^ b = 2 ^ (b - k) * 2 ^ k := by rw [← Nat.pow_add, Nat.sub_add_cancel hle]
    have hmod := Nat.mod_le m (2 ^ (b - k))
    have hdiv := Nat.div_mul_le_self m (2 ^ (b - k))
    refine ⟨⟨m % 2 ^ (b - k), k, by omega, hk, ?_⟩, ⟨m / 2 ^ (b - k) * 2 ^ (b - k), k, by omega, hk, ?_⟩⟩
    · rw [hunit, Nat.mul_mod_mul_right]
    · rw [hunit, Nat.mul_div_mul_right _ _ (by positivity), Nat.mul_assoc]
  · have hdvd : 2 ^ b ∣ m * 2 ^ k := Dvd.dvd.mul_left (Nat.pow_dvd_pow 2 hge) m
    exact ⟨⟨0, 0, by decide, by decide, by rw [Nat.mod_eq_zero_of_dvd hdvd]; rfl⟩, ⟨m, k, hm, hk, Nat.div_mul_cancel hdvd⟩⟩

/-- Rounding a number of full units gives the pattern of that number. -/
theorem roundMag_ulps {m k den : Nat} (hm : m < 2 ^ 24) (hk : k ≤ 253) (hnormal : k = 0 ∨ 2 ^ 23 ≤ m) (hden : 0 < den) :
    roundMag (m * 2 ^ k * den) den = k * 2 ^ 23 + m := by
  have hulp : Nat.log2 (m * 2 ^ k) - 23 = k := by
    rcases Nat.eq_zero_or_pos m with rfl | hpos
    · rw [Nat.zero_mul, Nat.log2_zero]
      omega
    · have hne : m * 2 ^ k ≠ 0 := by positivity
      have hlt : Nat.log2 (m * 2 ^ k) < 24 + k :=
        (Nat.log2_lt hne).2 (by rw [Nat.pow_add]; exact Nat.mul_lt_mul_of_pos_right hm (by positivity))
      have hge (hfull : 2 ^ 23 ≤ m) : 23 + k ≤ Nat.log2 (m * 2 ^ k) :=
        (Nat.le_log2 hne).2 (by rw [Nat.pow_add]; exact Nat.mul_le_mul_right _ hfull)
      omega
  have hround : roundNearestEven (m * 2 ^ k * den) (den * 2 ^ k) = m := by
    have hpos : 0 < den * 2 ^ k := by positivity
    have hprod : m * 2 ^ k * den = m * (den * 2 ^ k) := by ring
    simp [roundNearestEven, hprod, Nat.mul_div_cancel _ hpos, hpos]
  simp only [roundMag, Nat.mul_div_cancel _ hden, hulp, hround]
  omega

/-- The magnitude of the pattern of a number of full units. -/
theorem fMag_of_fMagBits {x : F32} {m k : Nat} (hm : m < 2 ^ 24) (hnormal : k = 0 ∨ 2 ^ 23 ≤ m) (h : fMagBits x = k * 2 ^ 23 + m) :
    fMag x = m * 2 ^ k := by
  obtain ⟨m', k', hm', hnormal', hbits, hmag⟩ := fMag_eq x
  obtain rfl : k' = k := by omega
  obtain rfl : m' = m := by omega
  exact hmag

/-- An exact number is what it is rounded to. -/
theorem fMag_fMake_roundMag {n : Nat} (hn : IsExact n) (neg : Bool) {den : Nat} (hden : 0 < den) :
    isFinite (fMake neg (roundMag (n * den) den)) = true ∧ fMag (fMake neg (roundMag (n * den) den)) = n := by
  obtain ⟨m, k, hm, hk, hnormal, rfl⟩ := hn.normal
  rw [roundMag_ulps hm hk hnormal hden]
  have hbits := fMagBits_fMake neg (k * 2 ^ 23 + m) (by omega)
  exact ⟨by rw [isFinite_iff]; omega, fMag_of_fMagBits hm hnormal hbits⟩

/-! ### Exact sums -/

theorem fScaled_roundSigned_of_exact {v : Int} (hv : IsExact v.natAbs) :
    isFinite (roundSigned v 1) = true ∧ fScaled (roundSigned v 1) = v := by
  have hround := fMag_fMake_roundMag hv (decide (v < 0)) Nat.one_pos
  rw [Nat.mul_one] at hround
  obtain ⟨hfin, hmag⟩ := hround
  have hle := roundMag_le v.natAbs 1
  refine ⟨hfin, ?_⟩
  rw [fScaled, roundSigned, hmag, fSign_fMake _ _ (by omega)]
  simp only [decide_eq_true_eq]
  split_ifs <;> omega

/-- A finite value that is not a zero is what its own value is rounded to. -/
theorem roundSigned_fScaled {x : F32} (hx : isFinite x = true) (hne : fScaled x ≠ 0) : roundSigned (fScaled x) 1 = x := by
  have hbits : roundMag (fMag x) 1 = fMagBits x := by
    obtain ⟨m, k, hm, hnormal, hbits, hmag⟩ := fMag_eq x
    rw [isFinite_iff] at hx
    have := roundMag_ulps hm (by omega) hnormal Nat.one_pos
    rwa [Nat.mul_one, ← hmag, ← hbits] at this
  have habs : (fScaled x).natAbs = fMag x := by unfold fScaled; split_ifs <;> omega
  have hsign : decide (fScaled x < 0) = fSign x := by
    unfold fScaled at hne ⊢
    cases h : fSign x with
    | false => simp
    | true =>
      simp only [h, if_true, decide_eq_true_eq] at hne ⊢
      omega
  rw [roundSigned, habs, hbits, hsign, fMake_self]

/-- A sum whose exact value binary32 holds is that value. -/
theorem fScaled_fadd_of_exact {a b : F32} (ha : isFinite a = true) (hb : isFinite b = true)
    (hsum : IsExact (fScaled a + fScaled b).natAbs) : isNaN (fadd a b) = false ∧ fScaled (fadd a b) = fScaled a + fScaled b := by
  obtain ⟨hnan, hkey⟩ := fadd_of_isFinite ha hb
  obtain ⟨-, hround⟩ := fScaled_roundSigned_of_exact hsum
  have hle := (fKey_le_iff (fadd a b) (roundSigned (fScaled a + fScaled b) 1)).1 hkey.le
  have hge := (fKey_le_iff (roundSigned (fScaled a + fScaled b) 1) (fadd a b)).1 hkey.ge
  exact ⟨hnan, by omega⟩

/-- Taking `+0.0` from a value keeps it, the sign of a zero too. -/
theorem fsub_fZero {x : F32} (hx : isFinite x = true) : fsub x fZero = x := by
  obtain ⟨hnan, hinf⟩ := classes_of_isFinite hx
  have hzero : isNaN (fNeg fZero) = false ∧ isInf (fNeg fZero) = false ∧ fSign (fNeg fZero) = true ∧ fScaled (fNeg fZero) = 0 := by
    decide
  obtain ⟨hznan, hzinf, hzsign, hzval⟩ := hzero
  have hadd : fsub x fZero = if fScaled x = 0 then fMake (fSign x) 0 else roundSigned (fScaled x) 1 := by
    simp [fsub, fadd, hnan, hinf, hznan, hzinf, hzsign, hzval]
  rw [hadd]
  split_ifs with h0
  · have hbits : fMagBits x = 0 := by
      have := fMag_lt_iff fZero x
      have hz : fMag fZero = 0 ∧ fMagBits fZero = 0 := by decide
      unfold fScaled at h0
      split_ifs at h0 <;> omega
    rw [← hbits, fMake_self]
  · exact roundSigned_fScaled hx h0

end Sys2Proof.Machine
end

section
/-!
The oscillator (spec/41_oscillator_voice.md R163, R165). Doubling a phase of [0, 1) is exact, and the saw's range is that of the rounded
difference, which is exact where it is positive. `frac` of a number that is not negative is its exact remainder over 1.0
(`fScaled_frac`), which is below 1.
-/
namespace Sys2Proof.Machine

/-! ### The saw (R163) -/

/-- A phase of [0, 1) is finite, and its value is its magnitude. -/
theorem phase_of_inUnitOpen {p : F32} (h : inUnitOpen p = true) :
    isFinite p = true ∧ fScaled p = fMag p ∧ fMag p < 2 ^ 149 := by
  obtain ⟨hnan, h0, h1⟩ := (inUnitOpen_iff p).1 h
  have hmag := fScaled_of_fKey_nonneg ((fKey_nonneg_iff p).2 h0)
  exact ⟨isFinite_of_flt ((fKey_nonneg_iff p).2 h0) ((flt_one_iff p).2 ⟨hnan, h1⟩), hmag, by omega⟩

/-- Doubling a phase of [0, 1) loses nothing. -/
theorem fScaled_double {p : F32} (h : inUnitOpen p = true) :
    isFinite (fmul fTwo p) = true ∧ fScaled (fmul fTwo p) = 2 * fScaled p := by
  obtain ⟨hfin, hval, hlt⟩ := phase_of_inUnitOpen h
  obtain ⟨hnan, hinf⟩ := classes_of_isFinite hfin
  have htwo : isNaN fTwo = false ∧ isInf fTwo = false ∧ fSign fTwo = false ∧ fMag fTwo = 2 * 2 ^ 149 := by decide
  obtain ⟨htnan, htinf, htsign, htmag⟩ := htwo
  have hmul : fmul fTwo p = fMake (fSign p) (roundMag (2 * fMag p * 2 ^ 149) (2 ^ 149)) := by
    simp [fmul, hnan, hinf, htnan, htinf, htsign, htmag, Nat.mul_right_comm]
  have hle := roundMag_le (2 * fMag p * 2 ^ 149) (2 ^ 149)
  obtain ⟨hfinite, hmag⟩ := fMag_fMake_roundMag (isExact_two_mul_fMag hlt) (fSign p) (den := 2 ^ 149) (by decide)
  refine ⟨hmul ▸ hfinite, ?_⟩
  rw [hmul, fScaled, hmag, fSign_fMake _ _ (by omega), fScaled]
  split_ifs <;> omega

theorem saw_eq (p : F32) : saw p = fsub (fmul fTwo p) fOne := rfl

/-- The saw before rounding is `2 * p - 1`. -/
theorem saw_is_rounded {p : F32} (h : inUnitOpen p = true) :
    isNaN (saw p) = false ∧ fKey (saw p) = fKey (roundSigned (2 * fScaled p - 2 ^ 149) 1) := by
  obtain ⟨hfin, hval⟩ := fScaled_double h
  have hone : isFinite (fNeg fOne) = true := by decide
  have hadd := fadd_of_isFinite hfin hone
  rwa [fScaled_fNeg, fScaled_fOne, hval] at hadd

theorem saw_ge_neg_one {p : F32} (h : inUnitOpen p = true) : fle 0xBF800000#32 (saw p) = true := by
  obtain ⟨hnan, hkey⟩ := saw_is_rounded h
  obtain ⟨-, h0, h1⟩ := (inUnitOpen_iff p).1 h
  have hminus : isNaN 0xBF800000#32 = false ∧ fKey 0xBF800000#32 = -0x3F800000 := by decide
  have hround := roundMag_le_one (n := (2 * fScaled p - 2 ^ 149).natAbs) (by omega)
  rw [fle_iff, hminus.2, hkey, fKey_roundSigned]
  exact ⟨hminus.1, hnan, by split_ifs <;> omega⟩

/-- In the upper half of the period the difference is exact, in the lower it is not positive. -/
theorem saw_lt_one {p : F32} (h : inUnitOpen p = true) : flt (saw p) fOne = true := by
  obtain ⟨hnan, hkey⟩ := saw_is_rounded h
  obtain ⟨-, h0, h1⟩ := (inUnitOpen_iff p).1 h
  refine (flt_one_iff _).2 ⟨hnan, ?_⟩
  rcases Int.lt_or_le (2 * fScaled p) (2 ^ 149) with hlow | hhigh
  · have hneg : fKey (saw p) ≤ fKey fZero := by
      rw [hkey, fKey_roundSigned, if_pos (by omega)]
      exact Int.neg_nonpos_of_nonneg (Int.natCast_nonneg _)
    have := (fKey_le_iff _ _).1 hneg
    rw [fScaled_fZero] at this
    omega
  · obtain ⟨hfin, hval⟩ := fScaled_double h
    obtain ⟨-, hmag, hlt⟩ := phase_of_inUnitOpen h
    have hone : isFinite (fNeg fOne) = true ∧ fScaled (fNeg fOne) = -2 ^ 149 := by decide
    have hrest : (fScaled (fmul fTwo p) + fScaled (fNeg fOne)).natAbs = 2 * fMag p % 2 ^ 149 := by
      rw [hval, hone.2]
      omega
    obtain ⟨-, hexact⟩ := fScaled_fadd_of_exact hfin hone.1 (hrest ▸ ((isExact_two_mul_fMag hlt).mod_div 149).1)
    rw [saw_eq, fsub, hexact, hval, hone.2]
    omega

/-- Settles O44: the doubling, the two ends of the range, and three evaluations. -/
theorem sawStaysInRange : Obligations.SawStaysInRange := by
  refine ⟨saw_eq, fun p h => ⟨(fScaled_double h).2, saw_ge_neg_one h, saw_lt_one h⟩, ?start, ?middle, ?last⟩
  all_goals decide

/-! ### The phase advance (R165) -/

/-- The whole periods of a number that is not negative. -/
theorem fScaled_floor32 {x : F32} (hx : isFinite x = true) (h0 : 0 ≤ fKey x) :
    isFinite (floor32 x) = true ∧ fScaled (floor32 x) = (fMag x / 2 ^ 149 * 2 ^ 149 : Nat) := by
  have hfloor : floor32 x = roundSigned (fMag x / 2 ^ 149 * 2 ^ 149 : Nat) 1 := by
    rw [floor32, if_pos hx, fScaled_of_fKey_nonneg h0]
    norm_cast
  rw [hfloor]
  exact fScaled_roundSigned_of_exact ((isExact_fMag hx).mod_div 149).2

/-- What is left of a number that is not negative when all whole periods are removed. -/
theorem fScaled_frac {x : F32} (hx : isFinite x = true) (h0 : 0 ≤ fKey x) :
    isNaN (frac x) = false ∧ fScaled (frac x) = (fMag x % 2 ^ 149 : Nat) := by
  obtain ⟨hfin, hfloor⟩ := fScaled_floor32 hx h0
  have hrest : fScaled x + fScaled (fNeg (floor32 x)) = (fMag x % 2 ^ 149 : Nat) := by
    have := Nat.div_add_mod' (fMag x) (2 ^ 149)
    rw [fScaled_fNeg, hfloor, fScaled_of_fKey_nonneg h0]
    omega
  have hexact : IsExact (fScaled x + fScaled (fNeg (floor32 x))).natAbs := by
    rw [hrest]
    exact ((isExact_fMag hx).mod_div 149).1
  obtain ⟨hnan, hsum⟩ := fScaled_fadd_of_exact hx ((isFinite_fNeg _).trans hfin) hexact
  exact ⟨hnan, hsum.trans hrest⟩

theorem inUnitOpen_frac {x : F32} (hx : isFinite x = true) (h0 : 0 ≤ fKey x) : inUnitOpen (frac x) = true := by
  obtain ⟨hnan, hval⟩ := fScaled_frac hx h0
  have := Nat.mod_lt (fMag x) (show 2 ^ 149 > 0 by decide)
  exact (inUnitOpen_iff _).2 ⟨hnan, by omega, by omega⟩

/-- A number of [0, 1) has no whole period. -/
theorem frac_of_inUnitOpen {x : F32} (h : inUnitOpen x = true) : frac x = x := by
  obtain ⟨hfin, hval, hlt⟩ := phase_of_inUnitOpen h
  have hfloor : floor32 x = fZero := by
    have hwhole : fScaled x / 2 ^ 149 * 2 ^ 149 = 0 := by omega
    rw [floor32, if_pos hfin, hwhole]
    decide
  rw [frac, hfloor, fsub_fZero hfin]

theorem phaseAdvance_of_isFinite {phase inc : F32} (h : isFinite (fadd phase inc) = true) :
    phaseAdvance phase inc = frac (fadd phase inc) := if_pos h

theorem phaseAdvance_of_not_isFinite {phase inc : F32} (h : ¬isFinite (fadd phase inc) = true) : phaseAdvance phase inc = fZero := if_neg h

theorem inUnitOpen_fZero : inUnitOpen fZero = true := by decide

/-- The phase stays in [0, 1) (R168). -/
theorem inUnitOpen_phaseAdvance {phase inc : F32} (h0 : 0 ≤ fKey (fadd phase inc)) : inUnitOpen (phaseAdvance phase inc) = true := by
  by_cases hfin : isFinite (fadd phase inc) = true
  · rw [phaseAdvance_of_isFinite hfin]
    exact inUnitOpen_frac hfin h0
  · rw [phaseAdvance_of_not_isFinite hfin]
    exact inUnitOpen_fZero

/-- Settles O45: the sum is not negative, and the advance is its remainder over 1.0. -/
theorem phaseAdvanceStaysInUnit : Obligations.PhaseAdvanceStaysInUnit := by
  intro phase inc hphase hinc
  obtain ⟨hpnan, hp0, -⟩ := (inUnitOpen_iff phase).1 hphase
  have hpos : nonNeg (fadd phase inc) = true := fadd_nonNeg ((nonNeg_iff _).2 ⟨hpnan, (fKey_nonneg_iff _).2 hp0⟩) hinc
  obtain ⟨hnan, h0⟩ := (nonNeg_iff _).1 hpos
  refine ⟨rfl, inUnitOpen_phaseAdvance h0, fun hlt => ?below, fun hge hlt => ?wrapped, fun hone => ?atOne⟩
  case below =>
    obtain ⟨-, hval⟩ := (flt_one_iff _).1 hlt
    rw [phaseAdvance_of_isFinite (isFinite_of_flt h0 hlt)]
    exact frac_of_inUnitOpen ((inUnitOpen_iff _).2 ⟨hnan, (fKey_nonneg_iff _).1 h0, hval⟩)
  case wrapped =>
    have hfin := isFinite_of_flt h0 hlt
    have hval := fScaled_of_fKey_nonneg h0
    obtain ⟨-, -, hfrom⟩ := (fle_iff _ _).1 hge
    obtain ⟨-, -, hbelow⟩ := (flt_iff _ _).1 hlt
    rw [fKey_le_iff, fScaled_fOne] at hfrom
    rw [fKey_lt_iff, fScaled_fTwo] at hbelow
    rw [phaseAdvance_of_isFinite hfin, (fScaled_frac hfin h0).2, fScaled_fOne]
    omega
  case atOne =>
    have hfin : isFinite fOne = true ∧ frac fOne = fZero := by decide
    rw [phaseAdvance_of_isFinite (hone ▸ hfin.1), hone, hfin.2]

end Sys2Proof.Machine
end

section
/-!
`NOTE_ON` outside the pad range (spec/42_voice_pool.md R177 to R179) and the frequencies it starts voices with (spec/41_oscillator_voice.md
R162). The voice `SynthAlloc` chooses is the first not active in search order (`synthAlloc_eq_first_free`). An entry of the default table
is its lowest octave's entry with the number of octaves added to the exponent field (`freqTable_toNat`), so it is a positive finite
number and one step of the exponent doubles it (`fMag_of_next_exponent`).
-/
namespace Sys2Proof.Machine

/-! ### The search (R177, R183) -/

/-- The chosen voice is the first from the cursor on that is not active, or the one at the cursor when all eight are active. -/
theorem synthAlloc_eq_first_free (s : State) :
    ∃ j < 8, synthAlloc s = (s.synthNext.toNat + j) % 8 ∧
      (∀ i < j, (s.voice ((s.synthNext.toNat + i) % 8)).active = true) ∧
      ((s.voice (synthAlloc s)).active = false ∨ (j = 0 ∧ ∀ i < 8, (s.voice i).active = true)) := by
  cases hfind : (searchOrder s.synthNext.toNat).find? (fun c => !(s.voice c).active) with
  | none =>
    have hcursor : synthAlloc s = s.synthNext.toNat := by rw [synthAlloc, hfind, Option.getD_none]
    refine ⟨0, by decide, ?_, fun i hi => absurd hi (Nat.not_lt_zero i), ?_⟩
    · rw [hcursor, Nat.add_zero, Nat.mod_eq_of_lt s.synthNext.isLt]
    · exact (synthAlloc_cases s).imp_right fun ⟨_, hall⟩ => ⟨rfl, hall⟩
  | some k =>
    have hk : synthAlloc s = k := by rw [synthAlloc, hfind, Option.getD_some]
    obtain ⟨hfree, j, hj, hjk, hbefore⟩ := List.find?_eq_some_iff_getElem.1 hfind
    simp only [searchOrder, List.length_map, List.length_range, Config.nv] at hj
    simp only [searchOrder, List.getElem_map, List.getElem_range, Config.nv, Bool.not_not] at hjk hbefore
    exact ⟨j, hj, hk.trans hjk.symm, hbefore, .inl (by simpa [hk] using hfree)⟩

/-! ### The command (R178, R179) -/

/-- A start writes one record of the pool and the cursor (R177, R178). -/
theorem synthStart_advanceSynthNext (k note : Nat) (vel : F32) (s : State) :
    synthStart k note vel (advanceSynthNext k s) =
      { s with
        voices := s.voices.set k (voiceStart s.params s.regs s.fs note vel (s.voice k))
        synthNext := BitVec.ofNat 3 ((k + 1) % 8) } := rfl

/-- The command outside the pad range. -/
theorem execNoteOn_of_synth_note {s : State} {note : Nat} (chan : Nat) {vel : F32} (hp : s.curPort = .p0) (hq : s.prepared = true)
    (hvel : isNaN vel = false) (hnote : note < 36 ∨ 43 < note) :
    execNoteOn note chan vel s = .next (synthStart (synthAlloc s) note vel (advanceSynthNext (synthAlloc s) s)) := by
  rw [execNoteOn, onP0_p0 _ _ hp, whenPrepared_yes _ _ hq, if_neg (by simp [hvel]), if_pos ((canHandle_iff note).2 hnote)]

/-! ### The default table (R162) -/

/-- All twelve lowest entries have the exponent field 130: they lie in [8, 16). -/
theorem freqOctave_exponent {r : Nat} (h : r < 12) :
    130 * 2 ^ 23 ≤ (freqOctave.getD r 0#32).toNat ∧ (freqOctave.getD r 0#32).toNat < 131 * 2 ^ 23 := by
  revert r
  decide

/-- The octave is added to the exponent field, and none of the eleven octaves carries into the sign. -/
theorem freqTable_toNat {note : Nat} (h : note < 128) :
    (freqTable note).toNat = (freqOctave.getD (note % 12) 0#32).toNat + note / 12 * 2 ^ 23 := by
  obtain ⟨-, hlt⟩ := freqOctave_exponent (Nat.mod_lt note (by decide : 12 > 0))
  rw [freqTable, BitVec.toNat_add, BitVec.toNat_ofNat]
  omega

theorem freqTable_bounds {note : Nat} (h : note < 128) : 2 ^ 23 ≤ (freqTable note).toNat ∧ (freqTable note).toNat < 0x7F800000 := by
  obtain ⟨hge, hlt⟩ := freqOctave_exponent (Nat.mod_lt note (by decide : 12 > 0))
  rw [freqTable_toNat h]
  omega

theorem freqTable_octave {note : Nat} (h : note + 12 < 128) : (freqTable (note + 12)).toNat = (freqTable note).toNat + 2 ^ 23 := by
  rw [freqTable_toNat h, freqTable_toNat (by omega), Nat.add_mod_right, Nat.add_div_right _ (by decide)]
  omega

/-! ### Patterns without a sign -/

theorem fMagBits_of_toNat_lt {x : F32} (h : x.toNat < 2 ^ 31) : fMagBits x = x.toNat := Nat.mod_eq_of_lt h

theorem fKey_of_toNat_lt {x : F32} (h : x.toNat < 2 ^ 31) : fKey x = x.toNat := by
  rw [fKey, if_neg (by simpa [fSign] using h), fMagBits_of_toNat_lt h]

theorem fScaled_of_toNat_lt {x : F32} (h : x.toNat < 2 ^ 31) : fScaled x = fMag x :=
  fScaled_of_fKey_nonneg (by rw [fKey_of_toNat_lt h]; exact Int.natCast_nonneg _)

theorem isFinite_and_pos_of_toNat {x : F32} (hpos : 0 < x.toNat) (hlt : x.toNat < 0x7F800000) :
    isFinite x = true ∧ fgt x fZero = true := by
  have hfin : isFinite x = true := by rw [isFinite_iff, fMagBits_of_toNat_lt (by omega)]; exact hlt
  have hzero : isNaN fZero = false ∧ fKey fZero = 0 := by decide
  refine ⟨hfin, (flt_iff fZero x).2 ⟨hzero.1, (classes_of_isFinite hfin).1, ?_⟩⟩
  rw [hzero.2, fKey_of_toNat_lt (by omega)]
  omega

/-- One step of the exponent field doubles a normal number. -/
theorem fMag_of_next_exponent {x y : F32} (hnormal : 2 ^ 23 ≤ fMagBits x) (hnext : fMagBits y = fMagBits x + 2 ^ 23) :
    fMag y = 2 * fMag x := by
  obtain ⟨m, k, hm, hk, hbits, hmag⟩ := fMag_eq x
  rw [fMag_of_fMagBits (k := k + 1) hm (by omega) (by omega), hmag]
  ring

/-! ### `FREQ_ROM` (R162) -/

theorem freqRom_of_table {p : Params} (h : p.freq = .table) (note : Nat) : freqRom p note = freqTable note := by
  simp only [freqRom, h]

theorem freqRom_of_free {p : Params} (h : p.freq = .free) (note : Nat) :
    freqRom p note =
      if note = 69 then 0x43DC0000#32
      else if isFinite (Config.freqFree note) && fgt (Config.freqFree note) fZero then Config.freqFree note
      else freqTable note := by
  simp only [freqRom, h]

/-- Note 69 is 440.0, in the default table too. -/
theorem freqRom_69 (p : Params) : freqRom p 69 = 0x43DC0000#32 := by
  cases h : p.freq with
  | table => rw [freqRom_of_table h]; decide
  | free => rw [freqRom_of_free h, if_pos rfl]

theorem freqTable_isFinite_and_pos {note : Nat} (h : note < 128) :
    isFinite (freqTable note) = true ∧ fgt (freqTable note) fZero = true := by
  obtain ⟨hge, hlt⟩ := freqTable_bounds h
  exact isFinite_and_pos_of_toNat (by omega) hlt

/-- The default table is finite and positive, and a free table is taken only where it is. -/
theorem freqRom_isFinite_and_pos (p : Params) {note : Nat} (h : note < 128) :
    isFinite (freqRom p note) = true ∧ fgt (freqRom p note) fZero = true := by
  cases hfreq : p.freq with
  | table => rw [freqRom_of_table hfreq]; exact freqTable_isFinite_and_pos h
  | free =>
    rw [freqRom_of_free hfreq]
    split_ifs with h69 hfree
    · decide
    · exact (Bool.and_eq_true_iff).1 hfree
    · exact freqTable_isFinite_and_pos h

theorem fScaled_freqTable_octave {note : Nat} (h : note + 12 < 128) : fScaled (freqTable (note + 12)) = 2 * fScaled (freqTable note) := by
  obtain ⟨hge, hlt⟩ := freqTable_bounds (note := note) (by omega)
  obtain ⟨-, hlt'⟩ := freqTable_bounds h
  have hbits := fMagBits_of_toNat_lt (x := freqTable note) (by omega)
  have hbits' := fMagBits_of_toNat_lt (x := freqTable (note + 12)) (by omega)
  have hdouble : fMag (freqTable (note + 12)) = 2 * fMag (freqTable note) :=
    fMag_of_next_exponent (hbits ▸ hge) (by rw [hbits, hbits', freqTable_octave h])
  rw [fScaled_of_toNat_lt (by omega), fScaled_of_toNat_lt (by omega), hdouble]
  norm_cast

/-- Settles O20: the voice is the first free one of the search, its record that of `SynthStart`; the frequencies are those of the table
and of the constraint on a free one. -/
theorem noteOnTakesTheFirstFreeVoice : Obligations.NoteOnTakesTheFirstFreeVoice := by
  refine ⟨fun s note chan vel hp hq hvel hnote _ => ?start, freqRom_69, fun p note h => freqRom_isFinite_and_pos p h,
    fun p hfreq => ⟨?lowest, fun note h => ?octave⟩⟩
  case start =>
    obtain ⟨j, hj, hk, hbefore, hchosen⟩ := synthAlloc_eq_first_free s
    refine ⟨j, synthAlloc s, hj, hk, hbefore, hchosen, ?_⟩
    exact (execNoteOn_of_synth_note chan hp hq hvel hnote).trans (congrArg _ (synthStart_advanceSynthNext _ _ _ _))
  case lowest =>
    rw [funext (freqRom_of_table hfreq)]
    decide
  case octave =>
    rw [freqRom_of_table hfreq, freqRom_of_table hfreq]
    exact fScaled_freqTable_octave h

end Sys2Proof.Machine
end

section
/-!
The pads' part of a frame (spec/43_pad_sampler.md R210, R211). As for the synth, one entry of the mix depends on its own frame only:
rendering a pad voice adds the voice's sample of that frame to the entry while the voice has frames left (`padVoiceRender_getD`), so
rendering them all is a fold of that addition over the pad voices (`padRender_getD`).
-/
namespace Sys2Proof.Machine

/-- What one pad voice does to an entry of frame `i` of channel `c` (R210): an active voice with that frame left adds its sample. -/
def addPadSample (s : State) (n c i : Nat) (acc : F32) (v : PadVoice) : F32 :=
  if 0 ≤ v.pos.toInt ∧ (i : Int) < padFrames (padSlotOf s v) v n then
    fadd acc (fmul (pmRead s (padAddr (padSlotOf s v) v i c).toNat) v.gain)
  else acc

theorem PadVoice.active_iff (v : PadVoice) : v.active = true ↔ 0 ≤ v.pos.toInt := decide_eq_true_iff

@[simp] theorem padSamples_length (s : State) (v : PadVoice) (count c : Nat) : (padSamples s v count c).length = count := by
  simp [padSamples]

theorem padSamples_getD {count i : Nat} (s : State) (v : PadVoice) (c : Nat) (hi : i < count) :
    (padSamples s v count c).getD i fZero = fmul (pmRead s (padAddr (padSlotOf s v) v i c).toNat) v.gain := by
  simp [padSamples, List.getD_eq_getElem?_getD, hi]

/-- The row of an output channel after one pad voice. -/
theorem padVoiceRender_row {s : State} {c : Nat} (n : Nat) (v : PadVoice) (mix : Mix) (hc : c < s.params.nch) :
    (padVoiceRender s n v mix).2.getD c [] =
      if v.active then addInto (mix.getD c []) (padSamples s v (padFrames (padSlotOf s v) v n).toNat c) else mix.getD c [] := by
  unfold padVoiceRender
  split_ifs
  · simp [List.getD_eq_getElem?_getD, hc]
  · rfl

theorem padVoiceRender_row_length {s : State} {c : Nat} (n : Nat) (v : PadVoice) (mix : Mix) (hc : c < s.params.nch) :
    ((padVoiceRender s n v mix).2.getD c []).length = (mix.getD c []).length := by
  rw [padVoiceRender_row n v mix hc]
  split_ifs
  · exact addInto_length _ _
  · rfl

/-- An entry of the mix after one pad voice. -/
theorem padVoiceRender_getD {s : State} {c i : Nat} (n : Nat) (v : PadVoice) {mix : Mix} (hc : c < s.params.nch)
    (hrow : i < (mix.getD c []).length) :
    ((padVoiceRender s n v mix).2.getD c []).getD i fZero = addPadSample s n c i ((mix.getD c []).getD i fZero) v := by
  rw [padVoiceRender_row n v mix hc, addPadSample]
  by_cases hactive : v.active = true
  · have hpos := v.active_iff.1 hactive
    rw [if_pos hactive, addInto_getD _ _ _ hrow, padSamples_length]
    by_cases hleft : (i : Int) < padFrames (padSlotOf s v) v n
    · have hi := Int.lt_toNat.2 hleft
      rw [if_pos hi, if_pos ⟨hpos, hleft⟩, padSamples_getD s v c hi]
    · rw [if_neg (mt Int.lt_toNat.1 hleft), if_neg fun h => hleft h.2]
  · rw [if_neg hactive, if_neg fun h => hactive (v.active_iff.2 h.1)]

/-- An entry of the mix after all pad voices, whatever the mix held. -/
theorem padRender_getD {s : State} {c i : Nat} (n : Nat) (vs : List PadVoice) {mix : Mix} (hc : c < s.params.nch)
    (hrow : i < (mix.getD c []).length) :
    ((padRender s n vs mix).2.getD c []).getD i fZero = vs.foldl (addPadSample s n c i) ((mix.getD c []).getD i fZero) := by
  induction vs generalizing mix with
  | nil => rfl
  | cons v vs ih =>
    have hrow' : i < ((padVoiceRender s n v mix).2.getD c []).length := by rwa [padVoiceRender_row_length n v mix hc]
    calc ((padRender s n (v :: vs) mix).2.getD c []).getD i fZero
        _ = vs.foldl (addPadSample s n c i) (((padVoiceRender s n v mix).2.getD c []).getD i fZero) := ih hrow'
        _ = vs.foldl (addPadSample s n c i) (addPadSample s n c i ((mix.getD c []).getD i fZero) v) := by
          rw [padVoiceRender_getD n v hc hrow]

/-- Settles O38: `padRender_getD` for a mix with a whole row on every channel. -/
theorem padSumIsInVoiceOrder : Obligations.PadSumIsInVoiceOrder := by
  intro s n c i vs mix hc hi hmix hrows
  have hcmix : c < mix.length := hmix ▸ hc
  have hrow : i < (mix.getD c []).length := by
    rw [List.getD_eq_getElem mix [] hcmix, hrows _ (List.getElem_mem hcmix)]
    exact hi
  exact padRender_getD n vs hc hrow

end Sys2Proof.Machine
end

section
/-!
The pad pool (spec/43_pad_sampler.md R197, R201). A trigger of a loaded pad writes the record at the cursor and moves the cursor one on
(`padVoice_padTrigger`, `padNext_padTrigger`), so `k` triggers have bound the `k` records from the first cursor on, cyclically
(`afterTriggers_iterate`), and `PV` of them have gone once round.
-/
namespace Sys2Proof.Machine

/-! ### One trigger -/

/-- A trigger writes one record of the pool and the cursor, or nothing (R197). -/
theorem padTrigger_eq (p : Nat) (vel : F32) (s : State) :
    padTrigger p vel s =
      if p < 8 ∧ (s.pad p).loaded = true then
        { s with
          padVoices := s.padVoices.set s.padNext.toNat (triggeredVoice p vel)
          padNext := BitVec.ofNat 5 ((s.padNext.toNat + 1) % s.params.pv) }
      else s := by
  rcases padTrigger_cases p vel s with ⟨hnot, h⟩ | ⟨hp, hl, h⟩
  · rw [h, if_neg hnot]
  · rw [h, if_pos ⟨hp, hl⟩]
    rfl

@[simp] theorem padTrigger_params (p : Nat) (vel : F32) (s : State) : (padTrigger p vel s).params = s.params := by
  rw [padTrigger_eq]
  split_ifs <;> rfl

@[simp] theorem padTrigger_pads (p : Nat) (vel : F32) (s : State) : (padTrigger p vel s).pads = s.pads := by
  rw [padTrigger_eq]
  split_ifs <;> rfl

/-- The 5 bits of the cursor hold every index of the pool (R35). -/
theorem toNat_ofNat_mod_pv {pv : Nat} (hpv : 1 ≤ pv ∧ pv ≤ 32) (k : Nat) : (BitVec.ofNat 5 (k % pv)).toNat = k % pv := by
  have hlt := Nat.mod_lt k hpv.1
  exact Nat.mod_eq_of_lt (by omega)

/-- A trigger keeps the sizes of the arrays and the range of the cursor. -/
theorem shapeInv_padTrigger {s : State} (h : ShapeInv s) (p : Nat) (vel : F32) : ShapeInv (padTrigger p vel s) := by
  rw [padTrigger_eq]
  split_ifs
  · obtain ⟨-, hpv, -⟩ := h.params
    refine { h with padVoices := (List.length_set ..).trans h.padVoices, padNext := ?_ }
    exact (toNat_ofNat_mod_pv hpv _).trans_lt (Nat.mod_lt _ hpv.1)
  · exact h

section Loaded

variable {s : State} {p : Nat} (h : ShapeInv s) (hp : p < 8) (hl : (s.pad p).loaded = true)
include h hp hl

theorem padNext_padTrigger (vel : F32) : (padTrigger p vel s).padNext.toNat = (s.padNext.toNat + 1) % s.params.pv := by
  obtain ⟨-, hpv, -⟩ := h.params
  rw [padTrigger_eq, if_pos ⟨hp, hl⟩]
  exact toNat_ofNat_mod_pv hpv _

theorem padVoice_padTrigger (vel : F32) (m : Nat) :
    (padTrigger p vel s).padVoice m = if m = s.padNext.toNat then triggeredVoice p vel else s.padVoice m := by
  have hcursor : s.padNext.toNat < s.padVoices.length := h.padVoices ▸ h.padNext
  rw [padTrigger_eq, if_pos ⟨hp, hl⟩]
  simp only [State.padVoice, List.getD_eq_getElem?_getD]
  split_ifs with hm
  · rw [hm, List.getElem?_set_self hcursor, Option.getD_some]
  · rw [List.getElem?_set_ne (Ne.symm hm)]

end Loaded

/-! ### A round of triggers (R201) -/

/-- What `k` triggers of pad `p` from state `s` have made of it: the `k` records from the cursor on are bound to the pad. -/
structure AfterTriggers (p : Nat) (vel : F32) (s : State) (k : Nat) (t : State) : Prop where
  shape : ShapeInv t
  params : t.params = s.params
  pads : t.pads = s.pads
  padNext : t.padNext.toNat = (s.padNext.toNat + k) % s.params.pv
  bound : ∀ j < k, t.padVoice ((s.padNext.toNat + j) % s.params.pv) = triggeredVoice p vel

/-- One trigger more binds one record more. -/
theorem AfterTriggers.succ {p : Nat} {vel : F32} {s t : State} {k : Nat} (ht : AfterTriggers p vel s k t) (hp : p < 8)
    (hl : (s.pad p).loaded = true) : AfterTriggers p vel s (k + 1) (padTrigger p vel t) := by
  have hlt : (t.pad p).loaded = true := by rwa [State.pad, ht.pads]
  refine ⟨shapeInv_padTrigger ht.shape p vel, (padTrigger_params p vel t).trans ht.params, (padTrigger_pads p vel t).trans ht.pads,
    ?cursor, fun j hj => ?bound⟩
  case cursor => rw [padNext_padTrigger ht.shape hp hlt, ht.padNext, ht.params, Nat.mod_add_mod, Nat.add_assoc]
  case bound =>
    rw [padVoice_padTrigger ht.shape hp hlt]
    split_ifs with hcursor
    · rfl
    · have hjk : j ≠ k := fun hjk => hcursor (by rw [hjk, ht.padNext])
      exact ht.bound j (by omega)

theorem afterTriggers_iterate {s : State} {p : Nat} (vel : F32) (h : ShapeInv s) (hp : p < 8) (hl : (s.pad p).loaded = true) (k : Nat) :
    AfterTriggers p vel s k ((padTrigger p vel)^[k] s) := by
  induction k with
  | zero => exact ⟨h, rfl, rfl, (Nat.mod_eq_of_lt h.padNext).symm, fun j hj => absurd hj (Nat.not_lt_zero j)⟩
  | succ k ih =>
    rw [Function.iterate_succ_apply']
    exact ih.succ hp hl

/-- Every record of the pool is reached from any cursor in less than a round. -/
theorem exists_turn {c pv m : Nat} (hc : c < pv) (hm : m < pv) : ∃ j < pv, (c + j) % pv = m := by
  rcases Nat.lt_or_ge m c with hlt | hge
  · refine ⟨m + pv - c, by omega, ?_⟩
    rw [show c + (m + pv - c) = m + pv by omega, Nat.add_mod_right, Nat.mod_eq_of_lt hm]
  · refine ⟨m - c, by omega, ?_⟩
    rw [Nat.add_sub_cancel' hge, Nat.mod_eq_of_lt hm]

/-- Settles O48: a round of triggers binds every record and brings the cursor back, and one more is a trigger at that cursor. -/
theorem padPoolIsRoundRobin : Obligations.PadPoolIsRoundRobin := by
  intro s p vel h hp hl full
  have hfull : AfterTriggers p vel s s.params.pv full := afterTriggers_iterate vel h hp hl _
  have hcursor : full.padNext.toNat = s.padNext.toNat := by
    rw [hfull.padNext, Nat.add_mod_right, Nat.mod_eq_of_lt h.padNext]
  refine ⟨fun m hm => ?all, BitVec.eq_of_toNat_eq hcursor, fun q vel' hq hlq => ⟨?first, ?next, fun m _ hne => ?others⟩⟩
  case all =>
    obtain ⟨j, hj, rfl⟩ := exists_turn h.padNext hm
    exact hfull.bound j hj
  case first =>
    rw [padVoice_padTrigger hfull.shape hq hlq, if_pos hcursor.symm]
    rfl
  case next => rw [padNext_padTrigger hfull.shape hq hlq, hcursor, hfull.params]
  case others => rw [padVoice_padTrigger hfull.shape hq hlq, if_neg (hcursor.symm ▸ hne)]

end Sys2Proof.Machine
end

section
/-!
The three pad commands (spec/43_pad_sampler.md R198, R203, R205). None looks at the port but for the load flag that `PAD_LOAD` writes, and
none at `PREPARED`. `PAD_LOAD` and `PAD_CLEAR` stop the voices on the slot by `PadInvalidate` (`padInvalidate_eq`).
-/
namespace Sys2Proof.Machine

/-- `PadInvalidate` stops the active voices on the slot and writes nothing else (R200). -/
theorem padInvalidate_eq (p : Nat) (s : State) :
    padInvalidate p s =
      { s with padVoices := s.padVoices.map (fun v =>
          if 0 ≤ v.pos.toInt ∧ v.src.toNat = p then { v with pos := 0xFFFFFFFF#32 } else v) } := by
  have hvoice : padVoiceInvalidate p = fun v =>
      if 0 ≤ v.pos.toInt ∧ v.src.toNat = p then { v with pos := 0xFFFFFFFF#32 } else v := by
    funext v
    rcases padVoiceInvalidate_cases p v with ⟨hactive, hsrc, h⟩ | ⟨hnot, h⟩ <;> rw [h]
    · rw [if_pos ⟨v.active_iff.1 hactive, hsrc⟩]
    · rw [if_neg (mt (And.imp_left v.active_iff.2) hnot)]
  rw [padInvalidate, hvoice]

theorem execPadTrig_number {vel : F32} (h : isNaN vel = false) (pad : Nat) (s : State) :
    execPadTrig pad vel s = .next (padTrigger pad vel s) := by
  simp [execPadTrig, h]

theorem execPadLoad_ok {pad : Nat} {s : State} (h : padLoadOk pad s = true) :
    execPadLoad pad s = .next (setLoadOk s.curPort true (setPad pad (stagedSlot s) (padInvalidate pad s))) := if_pos h

theorem execPadLoad_not_ok {pad : Nat} {s : State} (h : ¬padLoadOk pad s = true) :
    execPadLoad pad s = .next (setLoadOk s.curPort false s) := if_neg h

theorem execPadClear_slot {pad : Nat} (h : pad < 8) (s : State) :
    execPadClear pad s = .next (setPad pad PadSlot.empty (padInvalidate pad s)) := if_neg (Nat.not_le.2 h)

theorem execPadClear_bad {pad : Nat} (h : 8 ≤ pad) (s : State) : execPadClear pad s = .next s := if_pos h

/-- Settles O26: the conditions are those of `padLoadOk_iff`, and a load that is not good writes the flag alone. -/
theorem padLoadCommitsOrOnlyClearsTheFlag : Obligations.PadLoadCommitsOrOnlyClearsTheFlag := by
  refine fun s pad => ⟨fun hok => ?commit, fun hnot => ?clear⟩
  case commit =>
    refine (execPadLoad_ok ((padLoadOk_iff pad s).2 hok)).trans ?_
    rw [padInvalidate_eq]
    rfl
  case clear => exact execPadLoad_not_ok (mt (padLoadOk_iff pad s).1 hnot)

/-- Settles O25: a number as velocity makes the command the trigger, which `padTrigger_eq` describes. -/
theorem padTrigTakesTheCursorVoice : Obligations.PadTrigTakesTheCursorVoice := by
  intro s pad vel hvel
  exact (execPadTrig_number hvel pad s).trans (congrArg _ (padTrigger_eq pad vel s))

/-- Settles O27: below 8 the slot is emptied after `PadInvalidate`. -/
theorem padClearEmptiesTheSlot : Obligations.PadClearEmptiesTheSlot := by
  refine fun s pad => ⟨fun hpad => ?slot, fun hpad => execPadClear_bad hpad s⟩
  refine (execPadClear_slot hpad s).trans ?_
  rw [padInvalidate_eq]
  rfl

end Sys2Proof.Machine
end

section
/-!
A `RENDER` that passes its checks (spec/46_render_control.md R247, R259). Under R36 every address a pad voice reads lies inside the region
of the loaded slot it plays (`padAddr_in_region`), which fits pad sample memory, so the block never stops (`PadInv.readsExist`) and the
command is `renderBlock` (`execRender_of_checks`).
-/
namespace Sys2Proof.Machine

/-! ### The addresses of the pads (R210, R211) -/

/-- What `State.pad` answers outside the array is not loaded. -/
theorem State.pad_mem_of_loaded {s : State} {p : Nat} (h : (s.pad p).loaded = true) : s.pad p ∈ s.pads := by
  by_cases hp : p < s.pads.length
  · rw [State.pad, List.getD_eq_getElem _ _ hp]
    exact List.getElem_mem hp
  · rw [State.pad, List.getD_eq_default _ _ (Nat.not_lt.1 hp)] at h
    exact absurd h (by decide)

/-- An active pad voice plays a loaded slot, so R36 (b) holds of the region it reads. -/
theorem PadInv.region_of_active {s : State} {v : PadVoice} (h : PadInv s) (hv : v ∈ s.padVoices) (hactive : v.active = true) :
    1 ≤ (padSlotOf s v).chans.toNat ∧
    (padSlotOf s v).base.toNat + (padSlotOf s v).frames.toNat * (padSlotOf s v).chans.toNat ≤ s.params.padMemWords := by
  obtain ⟨hplays, -⟩ := h.voices v hv
  obtain ⟨hloaded, -⟩ := hplays hactive
  obtain ⟨hregion, -⟩ := h.slots _ (State.pad_mem_of_loaded hloaded)
  obtain ⟨-, -, hchans, hfits⟩ := hregion hloaded
  exact ⟨hchans, hfits⟩

/-- A frame of the slot starts a whole frame of channels before the end of the region, and the source channel is one of them. -/
theorem padAddr_in_region {slot : PadSlot} {v : PadVoice} {i : Nat} (c : Nat) (hpos : 0 ≤ v.pos.toInt)
    (hframe : v.pos.toInt + i < slot.frames.toNat) (hchans : 1 ≤ slot.chans.toNat) :
    0 ≤ padAddr slot v i c ∧ padAddr slot v i c < ((slot.base.toNat + slot.frames.toNat * slot.chans.toNat : Nat) : Int) := by
  have hstart : 0 ≤ (v.pos.toInt + i) * (slot.chans.toNat : Int) := by positivity
  have hend : (v.pos.toInt + i + 1) * (slot.chans.toNat : Int) ≤ slot.frames.toNat * slot.chans.toNat :=
    Int.mul_le_mul_of_nonneg_right (by omega) (by omega)
  rw [Int.add_mul, Int.one_mul] at hend
  unfold padAddr
  push_cast
  omega

/-- Whether the words one pad voice reads in a block exist: its frames and channels one by one (R284 c). -/
theorem padVoiceReadsExist_iff (s : State) (n : Nat) (v : PadVoice) :
    padVoiceReadsExist s n v = true ↔ (v.active = true → ∀ i : Nat, (i : Int) < padFrames (padSlotOf s v) v n →
      ∀ c < s.params.nch, 0 ≤ padAddr (padSlotOf s v) v i c ∧ padAddr (padSlotOf s v) v i c < s.params.padMemWords) := by
  have hexists (a : Int) : (0 ≤ a ∧ a.toNat < s.params.padMemWords) ↔ (0 ≤ a ∧ a < s.params.padMemWords) := by omega
  simp only [padVoiceReadsExist, pmExists, Bool.or_eq_true, Bool.not_eq_true', ← Bool.not_eq_true, ← imp_iff_not_or,
    List.all_eq_true, List.mem_range, Int.lt_toNat, Bool.and_eq_true, decide_eq_true_eq, hexists]

/-- Under R36 a block of any length reads words that exist only. -/
theorem PadInv.readsExist {s : State} (h : PadInv s) (n : Nat) : padReadsExist s n = true := by
  refine List.all_eq_true.2 fun v hv => (padVoiceReadsExist_iff s n v).2 fun hactive i hi c _ => ?_
  obtain ⟨hchans, hfits⟩ := h.region_of_active hv hactive
  have hframe : v.pos.toInt + i < (padSlotOf s v).frames.toNat := by
    have hleft := hi.trans_le (min_le_left _ _)
    omega
  obtain ⟨hlow, hhigh⟩ := padAddr_in_region c (v.active_iff.1 hactive) hframe hchans
  exact ⟨hlow, hhigh.trans_le (Int.ofNat_le.2 hfits)⟩

/-! ### The command (R259) -/

theorem execRender_of_checks {s : State} {n : Nat} (hp : s.curPort = .p0) (hq : s.prepared = true) (hn : n ≤ s.maxBlock.toNat)
    (hreads : padReadsExist s n = true) : execRender n s = .next (renderBlock s n) := by
  rw [execRender, onP0_p0 _ _ hp, whenPrepared_yes _ _ hq, if_neg (Nat.not_lt.2 hn), if_pos hreads]

/-- A count that passes the check fits the 13 bits of `OUT_COUNT` (R45). -/
theorem renderBlock_outCount_toNat {s : State} {n : Nat} (hn : n ≤ s.maxBlock.toNat) : (renderBlock s n).outCount.toNat = n := by
  rw [renderBlock_outCount, BitVec.toNat_ofNat, Nat.mod_eq_of_lt (hn.trans_lt s.maxBlock.isLt)]

/-- Settles O33: the state is that of `renderBlock`, whose chain registers are those of `chainOf`. -/
theorem renderCompletesAndSetsTheChain : Obligations.RenderCompletesAndSetsTheChain := by
  intro s n hpads hp hq hn
  refine ⟨renderBlock s n, execRender_of_checks hp hq hn (hpads.readsExist n), renderBlock_outCount_toNat hn, rfl, ?_⟩
  rw [renderBlock_chain]
  exact ⟨rfl, rfl, rfl, rfl, rfl, rfl, rfl, rfl, rfl, rfl, rfl, rfl⟩

end Sys2Proof.Machine
end

section
/-!
The filter of spec/45_filter_chain.md R234 to R236 as a run over frames: a channel's row is one biquad step per frame (`filterRow_cons`),
so a row of two parts is the first part and then the second from the state the first left (`filterRow_append`).
-/
namespace Sys2Proof.Machine

theorem filterRow_nil (k : Coefs) (b : Biquad) : filterRow k b [] = ([], b) := rfl

/-- The first frame is R234 with the update of R235; the rest of the row runs from the updated state. -/
theorem filterRow_cons (k : Coefs) (b : Biquad) (x : F32) (xs : List F32) :
    filterRow k b (x :: xs) =
      (biquadOut k b x :: (filterRow k (biquadNext b x (biquadOut k b x)) xs).1,
       (filterRow k (biquadNext b x (biquadOut k b x)) xs).2) := rfl

theorem filterRow_singleton (k : Coefs) (b : Biquad) (x : F32) :
    filterRow k b [x] = ([biquadOut k b x], biquadNext b x (biquadOut k b x)) := by
  rw [filterRow_cons, filterRow_nil]

/-- The four state registers carry the whole history of a channel: nothing else passes from the first part of a row to the second. -/
theorem filterRow_append (k : Coefs) (b : Biquad) (xs ys : List F32) :
    filterRow k b (xs ++ ys) =
      ((filterRow k b xs).1 ++ (filterRow k (filterRow k b xs).2 ys).1, (filterRow k (filterRow k b xs).2 ys).2) := by
  induction xs generalizing b with
  | nil => simp only [List.nil_append, filterRow_nil]
  | cons x xs ih => simp only [List.cons_append, filterRow_cons, ih]

/-- Settles O41: one frame is the row of one sample, with the equation of `biquadOut` and the update of `biquadNext` written out; the
composition is by induction on the first part, from every state. -/
theorem filterIsAFrameRecurrence : Obligations.FilterIsAFrameRecurrence :=
  ⟨filterRow_singleton, filterRow_append⟩

end Sys2Proof.Machine
end

section
/-!
`PREPARE` and `RELEASE` (spec/46_render_control.md R256 to R258): each is `EngineClear` after its own fields are written
(`execPrepare_of_legal`, `execRelease_p0`).
-/
namespace Sys2Proof.Machine

/-- The operand checks of `PREPARE` (R256). -/
theorem prepareOk_iff (p : Params) (n : Nat) (rate : F32) :
    prepareOk p n rate = true ↔ (isFinite rate = true ∧ fgt rate fZero = true) ∧ (n ≠ 0 ∧ n ≤ p.hwMaxBlock) := by
  simp only [prepareOk, Bool.and_eq_true, decide_eq_true_eq]

theorem execPrepare_of_legal {s : State} {n : Nat} {rate : F32} (hp : s.curPort = .p0) (hok : prepareOk s.params n rate = true) :
    execPrepare n rate s = .next (engineClear (configure n rate s)) := by
  rw [execPrepare, onP0_p0 _ _ hp, if_pos hok]

theorem execRelease_p0 {s : State} (hp : s.curPort = .p0) : execRelease s = .next (engineClear { s with prepared := false }) := by
  rw [execRelease, onP0_p0 _ _ hp]

/-- `MAXBLOCK` has room for every block size that `HW_MAXBLOCK` may allow (R21). -/
theorem toNat_ofNat_maxBlock {p : Params} (hp : p.Legal) {n : Nat} (hn : n ≤ p.hwMaxBlock) : (BitVec.ofNat 13 n).toNat = n := by
  obtain ⟨-, -, ⟨-, hmax⟩, -⟩ := hp
  rw [BitVec.toNat_ofNat]
  exact Nat.mod_eq_of_lt (by omega)

/-- Settles O18: the checks pass, and the state is `EngineClear` of the recorded configuration. -/
theorem prepareConfiguresAndClears : Obligations.PrepareConfiguresAndClears := by
  intro s n rate hp hfin hpos hlow hhigh
  have hok : prepareOk s.params n rate = true := (prepareOk_iff _ _ _).2 ⟨⟨hfin, hpos⟩, Nat.one_le_iff_ne_zero.1 hlow, hhigh⟩
  exact ⟨execPrepare_of_legal hp hok, fun hlegal => toNat_ofNat_maxBlock hlegal hhigh⟩

/-- Settles O19: past port admission nothing is checked, so the state is `EngineClear` whether or not the engine was prepared. -/
theorem releaseClears : Obligations.ReleaseClears := fun _ hp => execRelease_p0 hp

end Sys2Proof.Machine
end

section
/-!
Adding zeros to a sum (spec/46_render_control.md R270: "the zeros an Idle voice adds do not change a sum"). A sum that began at `+0.0` is
never `-0.0` and its only NaN is the canonical one (`isSum_fadd`), and such a value is unchanged by adding a zero of either sign
(`fadd_of_isSum_of_zero`). The sample of an Idle voice is a zero when its velocity gain is finite (`voiceSample_zero`). Its phase stays
in range because the phase increment is not negative (`nonNeg_fdiv`).
-/
namespace Sys2Proof.Machine

/-- What a sum that began at `+0.0` can be: not `-0.0`, and of the NaNs only the canonical one. -/
def IsSum (x : F32) : Prop := (fMagBits x = 0 → fSign x = false) ∧ (isNaN x = true → x = fNaN)

theorem isSum_fZero : IsSum fZero := ⟨by decide, by decide⟩

theorem isSum_fNaN : IsSum fNaN := ⟨by decide, fun _ => rfl⟩

theorem isSum_of_isInf {x : F32} (h : isInf x = true) : IsSum x := by
  refine ⟨fun h0 => ?_, fun hnan => ?_⟩
  · rw [isInf_iff, h0] at h
    cases h
  · rw [isNaN_of_isInf h] at hnan
    cases hnan

/-- The sum of two finite values (R9). -/
theorem fadd_finite {a b : F32} (ha : isFinite a = true) (hb : isFinite b = true) :
    fadd a b = if fScaled a + fScaled b = 0 then fMake (fSign a && fSign b) 0 else roundSigned (fScaled a + fScaled b) 1 := by
  obtain ⟨hnana, hinfa⟩ := classes_of_isFinite ha
  obtain ⟨hnanb, hinfb⟩ := classes_of_isFinite hb
  simp [fadd, hnana, hinfa, hnanb, hinfb]

theorem fMag_eq_zero_iff (x : F32) : fMag x = 0 ↔ fMagBits x = 0 := by
  have h := fMag_lt_iff fZero x
  have hzero : fMag fZero = 0 ∧ fMagBits fZero = 0 := by decide
  omega

theorem fScaled_eq_zero_iff (x : F32) : fScaled x = 0 ↔ fMagBits x = 0 := by
  rw [← fMag_eq_zero_iff]
  unfold fScaled
  split_ifs <;> omega

/-- One unit or more does not round to nothing. -/
theorem roundMag_pos {n : Nat} (h : 0 < n) : 0 < roundMag n 1 := by
  rcases Nat.lt_or_ge n (2 ^ 23) with hlow | hhigh
  · have hexact := roundMag_ulps (m := n) (k := 0) (by omega) (by decide) (.inl rfl) Nat.one_pos
    simp only [Nat.pow_zero, Nat.mul_one, Nat.zero_mul, Nat.zero_add] at hexact
    omega
  · have hulp : n / 2 ^ (Nat.log2 n - 23) ≥ 1 :=
      (Nat.one_le_div_iff (by positivity)).2 ((Nat.pow_le_pow_right (by decide) (Nat.sub_le _ _)).trans (Nat.log2_self_le (by omega)))
    have hround : n / 2 ^ (Nat.log2 n - 23) ≤ roundNearestEven n (2 ^ (Nat.log2 n - 23)) := by
      simp only [roundNearestEven]
      split_ifs <;> omega
    simp only [roundMag, Nat.div_one, Nat.one_mul]
    omega

theorem isSum_roundSigned {v : Int} (h : v ≠ 0) : IsSum (roundSigned v 1) := by
  have hpos := roundMag_pos (n := v.natAbs) (by omega)
  have hle := roundMag_le v.natAbs 1
  refine ⟨fun h0 => ?_, fun hnan => ?_⟩
  · rw [roundSigned, fMagBits_fMake _ _ (by omega)] at h0
    omega
  · rw [isNaN_roundSigned] at hnan
    cases hnan

/-- An exact zero sum is `-0.0` only when both operands are (R9), and a sum is not. -/
theorem signs_of_zero_sum {x y : F32} (hx : fMagBits x = 0 → fSign x = false) (h : fScaled x + fScaled y = 0) :
    (fSign x && fSign y) = false := by
  cases hsx : fSign x with
  | false => rfl
  | true =>
    cases hsy : fSign y with
    | false => rfl
    | true =>
      have hmag : fMag x = 0 := by
        simp only [fScaled, hsx, hsy, if_true] at h
        omega
      rw [hx ((fMag_eq_zero_iff x).1 hmag)] at hsx
      cases hsx

/-- A sum stays one whatever is added next: one case for each branch of `fadd`. -/
theorem isSum_fadd {x : F32} (hx : IsSum x) (y : F32) : IsSum (fadd x y) := by
  simp only [fadd]
  split_ifs with _ _ _ hyinf h0
  · exact isSum_fNaN
  · exact isSum_fNaN
  · exact hx
  · exact isSum_of_isInf hyinf
  · rw [signs_of_zero_sum hx.1 h0]
    exact isSum_fZero
  · exact isSum_roundSigned h0

/-- Adding a zero of either sign leaves a sum as it is. -/
theorem fadd_of_isSum_of_zero {x z : F32} (hx : IsSum x) (hz : fMagBits z = 0) : fadd x z = x := by
  obtain ⟨hsign, hcanon⟩ := hx
  have hzfin : isFinite z = true := by rw [isFinite_iff]; omega
  obtain ⟨hznan, hzinf⟩ := classes_of_isFinite hzfin
  rcases float_classes x with ⟨hnan, -, -⟩ | ⟨-, hinf, -⟩ | ⟨-, -, hfin⟩
  · rw [fadd_nan x z (.inl hnan), hcanon hnan]
  · exact fadd_of_isInf_left hinf hznan fun h => absurd h (by simp [hzinf])
  · rw [fadd_finite hfin hzfin, (fScaled_eq_zero_iff z).2 hz, Int.add_zero]
    split_ifs with h0
    · have hbits := (fScaled_eq_zero_iff x).1 h0
      have hself := fMake_self x
      rw [hbits, hsign hbits] at hself
      rw [hsign hbits, Bool.false_and, hself]
    · exact roundSigned_fScaled hfin h0

/-! ### The sample of an Idle voice -/

theorem isFinite_of_zero {x : F32} (h : fMagBits x = 0) : isFinite x = true := by
  rw [isFinite_iff]
  omega

/-- A zero times a finite value is a zero. -/
theorem fMagBits_fmul_of_zero {a b : F32} (ha : isFinite a = true) (hb : isFinite b = true) (h : fMagBits a = 0 ∨ fMagBits b = 0) :
    fMagBits (fmul a b) = 0 := by
  obtain ⟨hnana, hinfa⟩ := classes_of_isFinite ha
  obtain ⟨hnanb, hinfb⟩ := classes_of_isFinite hb
  have hprod : fMag a * fMag b = 0 := by
    rw [← fMag_eq_zero_iff, ← fMag_eq_zero_iff] at h
    exact Nat.mul_eq_zero.2 h
  have hmul : fmul a b = fMake (fSign a != fSign b) 0 := by
    simp [fmul, hnana, hinfa, hnanb, hinfb, hprod]
  rw [hmul, fMagBits_fMake _ _ (by decide)]

theorem isFinite_saw {p : F32} (h : inUnitOpen p = true) : isFinite (saw p) = true := by
  have hone : fKey 0xBF800000#32 = -0x3F800000 ∧ fKey fOne = 0x3F800000 := by decide
  obtain ⟨-, -, hlow⟩ := (fle_iff _ _).1 (saw_ge_neg_one h)
  obtain ⟨-, -, hhigh⟩ := (flt_iff _ _).1 (saw_lt_one h)
  rw [hone.1] at hlow
  rw [hone.2] at hhigh
  rw [isFinite_iff]
  unfold fKey at hlow hhigh
  split_ifs at hlow hhigh <;> omega

/-- A voice at level `+0.0` contributes a zero, when its velocity gain is finite (R164). -/
theorem voiceSample_zero {phase velgain : F32} (hphase : inUnitOpen phase = true) (hgain : isFinite velgain = true) :
    fMagBits (voiceSample phase fZero velgain) = 0 := by
  have hlevel : fMagBits (fmul (saw phase) fZero) = 0 := fMagBits_fmul_of_zero (isFinite_saw hphase) (by decide) (.inr (by decide))
  have hgained := fMagBits_fmul_of_zero (isFinite_of_zero hlevel) hgain (.inl hlevel)
  exact fMagBits_fmul_of_zero (isFinite_of_zero hgained) (by decide) (.inl hgained)

/-! ### Quotients (R161) -/

/-- A positive number has no sign and some magnitude. -/
theorem sign_and_bits_of_pos {x : F32} (h : fgt x fZero = true) : fSign x = false ∧ fMagBits x ≠ 0 := by
  have hzero : fKey fZero = 0 := by decide
  obtain ⟨-, -, hkey⟩ := (flt_iff _ _).1 h
  rw [hzero] at hkey
  have hbits := fMagBits_of_fKey_nonneg hkey.le
  refine ⟨?_, by omega⟩
  cases hs : fSign x with
  | false => rfl
  | true =>
    simp only [fKey, hs, if_true] at hkey
    omega

/-- Of the numbers that are not negative, `-0.0` alone has the sign bit. -/
theorem fMag_eq_zero_of_fSign {x : F32} (h : 0 ≤ fKey x) (hs : fSign x = true) : fMag x = 0 := by
  simp only [fKey, hs, if_true] at h
  rw [fMag_eq_zero_iff]
  omega

/-- A quotient of a number that is not negative, infinity included, by a positive finite one is not negative (R168). -/
theorem nonNeg_fdiv {a b : F32} (ha : nonNeg a = true) (hb : isFinite b = true) (hpos : fgt b fZero = true) : nonNeg (fdiv a b) = true := by
  obtain ⟨hnana, hkeya⟩ := (nonNeg_iff a).1 ha
  obtain ⟨hnanb, hinfb⟩ := classes_of_isFinite hb
  obtain ⟨hsignb, hbitsb⟩ := sign_and_bits_of_pos hpos
  rcases isFinite_or_isInf hnana with hfina | hinfa
  · obtain ⟨-, hinfa⟩ := classes_of_isFinite hfina
    have hdiv : fdiv a b = fMake (fSign a) (roundMag (fMag a * 2 ^ 149) (fMag b)) := by
      simp [fdiv, hnana, hnanb, hinfa, hinfb, hbitsb, hsignb]
    have hle := roundMag_le (fMag a * 2 ^ 149) (fMag b)
    rw [hdiv, nonNeg_iff, fKey_fMake _ (by omega)]
    refine ⟨isNaN_fMake_roundMag _ _ _, ?_⟩
    cases hs : fSign a with
    | false => exact Int.natCast_nonneg _
    | true =>
      have hround : roundMag 0 (fMag b) = 0 := by simp [roundMag, roundNearestEven]
      simp [fMag_eq_zero_of_fSign hkeya hs, hround]
  · have hdiv : fdiv a b = fInf (fSign a) := by
      simp [fdiv, hnana, hnanb, hinfa, hinfb, hsignb]
    rw [hdiv, fSign_of_isInf_of_fKey_nonneg hinfa hkeya]
    decide

end Sys2Proof.Machine
end

section
/-!
A synth voice over two blocks (spec/46_render_control.md R270). A block leaves a voice as `voiceAfter` says, and two blocks leave it as one
would, but for the phase of a voice that the first block freed (`voiceAfter_add`, `voiceAfter_add_of_freed`). A freed voice would have added
zeros only, so the synth's part of a frame is the same in both runs (`synthSum_add`).
-/
namespace Sys2Proof.Machine

/-! ### The envelope over many frames -/

/-- An envelope that is Idle is silent (R25 (d)). -/
def Env.SilentIdle (e : Env) : Prop := e.stage = .idle → e.level = fZero

theorem silentIdle_envAttackStep {e : Env} (h : e.stage = .attack) : (envAttackStep e).SilentIdle := by
  refine fun hidle => absurd hidle ?_
  cases htop : fge (fadd e.level e.arate) fOne with
  | false => simp [envAttackStep_below htop, h]
  | true =>
    cases hd : fgt e.decay fZero with
    | false => simp [envAttackStep_top_sustain htop hd]
    | true => simp [envAttackStep_top_decay htop hd]

theorem silentIdle_envDecayStep {e : Env} (h : e.stage = .decay) : (envDecayStep e).SilentIdle := by
  refine fun hidle => absurd hidle ?_
  cases hend : fle (fsub e.level e.drate) e.sustain with
  | false => simp [envDecayStep_above hend, h]
  | true => simp [envDecayStep_end hend]

/-- The end of Release makes an envelope Idle, and it silences it too (R149). -/
theorem silentIdle_envReleaseStep {e : Env} (h : e.stage = .release) : (envReleaseStep e).SilentIdle := by
  intro hidle
  cases hend : fle (fsub e.level e.rrate) fZero with
  | false => simp [envReleaseStep_above hend, h] at hidle
  | true => rw [envReleaseStep_end hend]

/-- After any sample an envelope that is Idle is silent. -/
theorem silentIdle_envNextSample (e : Env) : (envNextSample e).SilentIdle := by
  cases hstage : e.stage with
  | idle => rw [envNextSample_of_idle hstage]; exact fun _ => rfl
  | attack => rw [envNextSample_of_attack hstage]; exact silentIdle_envAttackStep hstage
  | decay => rw [envNextSample_of_decay hstage]; exact silentIdle_envDecayStep hstage
  | sustain => rw [envNextSample_of_sustain hstage]; exact fun hidle => absurd hidle (by simp [hstage])
  | release => rw [envNextSample_of_release hstage]; exact silentIdle_envReleaseStep hstage

theorem silentIdle_iterate {e : Env} (h : e.SilentIdle) (n : Nat) : (envNextSample^[n] e).SilentIdle := by
  cases n with
  | zero => exact h
  | succ n =>
    rw [Function.iterate_succ_apply']
    exact silentIdle_envNextSample _

/-- From the sample at which it becomes Idle an envelope does not move. -/
theorem iterate_envNextSample_add_of_idle {e : Env} (h : e.SilentIdle) {n : Nat} (hidle : (envNextSample^[n] e).stage = .idle) (m : Nat) :
    envNextSample^[n + m] e = envNextSample^[n] e := by
  rw [Nat.add_comm, Function.iterate_add_apply]
  refine Function.iterate_fixed ?_ m
  rw [envNextSample_of_idle hidle, ← silentIdle_iterate h n hidle]

/-- R25 (c) and (d): an Idle voice is inactive, and so silent. -/
theorem Voice.settled.silentIdle {v : Voice} (h : v.settled) : v.env.SilentIdle := by
  obtain ⟨hinactive, hactive⟩ := h
  intro hidle
  cases ha : v.active with
  | false => exact (hinactive ha).2
  | true => exact absurd hidle (hactive ha)

/-! ### A voice over many frames -/

/-- Frames move the phase and the envelope of a voice only. -/
theorem iterate_voiceStep_frame (fs : F32) (n : Nat) (v : Voice) :
    (voiceStep fs)^[n] v = { v with phase := ((voiceStep fs)^[n] v).phase, env := envNextSample^[n] v.env } := by
  induction n with
  | zero => rfl
  | succ n ih =>
    rw [Function.iterate_succ_apply', Function.iterate_succ_apply', ih]
    rfl

@[simp] theorem iterate_voiceStep_env (fs : F32) (n : Nat) (v : Voice) : ((voiceStep fs)^[n] v).env = envNextSample^[n] v.env := by
  rw [iterate_voiceStep_frame]

@[simp] theorem iterate_voiceStep_active (fs : F32) (n : Nat) (v : Voice) : ((voiceStep fs)^[n] v).active = v.active := by
  rw [iterate_voiceStep_frame]

@[simp] theorem iterate_voiceStep_freq (fs : F32) (n : Nat) (v : Voice) : ((voiceStep fs)^[n] v).freq = v.freq := by
  rw [iterate_voiceStep_frame]

@[simp] theorem iterate_voiceStep_velgain (fs : F32) (n : Nat) (v : Voice) : ((voiceStep fs)^[n] v).velgain = v.velgain := by
  rw [iterate_voiceStep_frame]

/-- The phase stays in [0, 1) over any number of frames (R168). -/
theorem inUnitOpen_phase_iterate {fs : F32} {v : Voice} (hfs : isFinite fs = true) (hpos : fgt fs fZero = true)
    (hphase : inUnitOpen v.phase = true) (hfreq : nonNeg v.freq = true) (n : Nat) :
    inUnitOpen ((voiceStep fs)^[n] v).phase = true := by
  induction n with
  | zero => exact hphase
  | succ n ih =>
    rw [Function.iterate_succ_apply', voiceStep_phase, iterate_voiceStep_freq]
    obtain ⟨-, hin, -⟩ := phaseAdvanceStaysInUnit _ _ ih (nonNeg_fdiv hfreq hfs hpos)
    exact hin

/-! ### A voice after a block -/

/-- The voice a block of `n` frames leaves (R166, R167). -/
def voiceAfter (fs : F32) (n : Nat) (v : Voice) : Voice := if v.active then voiceFree ((voiceStep fs)^[n] v) else v

theorem voiceRender_fst (fs : F32) (n : Nat) (v : Voice) (mix : Mix) : (voiceRender fs n v mix).1 = voiceAfter fs n v := by
  unfold voiceRender voiceAfter
  split_ifs
  · exact congrArg voiceFree (voiceRun_snd fs n v)
  · rfl

theorem synthRender_voices (fs : F32) (n : Nat) (vs : List Voice) (mix : Mix) :
    (synthRender fs n vs mix).1 = vs.map (voiceAfter fs n) := by
  rw [synthRender_fst]
  exact List.map_congr_left fun v _ => voiceRender_fst fs n v []

theorem voiceAfter_of_inactive {v : Voice} (h : v.active = false) (fs : F32) (n : Nat) : voiceAfter fs n v = v := by
  simp [voiceAfter, h]

/-- An active voice that sounds to the end of the block has gone through the frames and stays active. -/
theorem voiceAfter_of_sounding {fs : F32} {n : Nat} {v : Voice} (h : v.active = true) (hs : (envNextSample^[n] v.env).stage ≠ .idle) :
    voiceAfter fs n v = (voiceStep fs)^[n] v := by
  simp [voiceAfter, voiceFree, envIsActive, h, hs]

/-- An active voice that becomes Idle in the block is free at its end. -/
theorem voiceAfter_of_idle {fs : F32} {n : Nat} {v : Voice} (h : v.active = true) (hs : (envNextSample^[n] v.env).stage = .idle) :
    voiceAfter fs n v = { (voiceStep fs)^[n] v with active := false } := by
  simp [voiceAfter, voiceFree, envIsActive, h, hs]

/-- Two blocks leave a voice as one does, when the first leaves it active or it was inactive before. -/
theorem voiceAfter_add {fs : F32} {n₁ n₂ : Nat} {v : Voice} (h : v.active = true → (envNextSample^[n₁] v.env).stage ≠ .idle) :
    voiceAfter fs n₂ (voiceAfter fs n₁ v) = voiceAfter fs (n₁ + n₂) v := by
  cases ha : v.active with
  | false => simp only [voiceAfter_of_inactive ha]
  | true =>
    rw [voiceAfter_of_sounding ha (h ha)]
    simp only [voiceAfter, iterate_voiceStep_active, ha, if_true, ← Function.iterate_add_apply, Nat.add_comm n₂ n₁]

/-- A voice that the first block freed: the one block leaves it the same but for the phase, which runs on. -/
theorem voiceAfter_add_of_freed {fs : F32} {n₁ n₂ : Nat} {v : Voice} (ha : v.active = true) (hsilent : v.env.SilentIdle)
    (hs : (envNextSample^[n₁] v.env).stage = .idle) :
    { (voiceAfter fs n₂ (voiceAfter fs n₁ v)) with phase := (voiceAfter fs (n₁ + n₂) v).phase } = voiceAfter fs (n₁ + n₂) v := by
  have henv : envNextSample^[n₁ + n₂] v.env = envNextSample^[n₁] v.env :=
    iterate_envNextSample_add_of_idle hsilent hs n₂
  rw [voiceAfter_of_idle ha hs, voiceAfter_of_inactive rfl, voiceAfter_of_idle ha (by rwa [henv]), iterate_voiceStep_frame fs n₁,
    iterate_voiceStep_frame fs (n₁ + n₂), henv]

/-! ### The synth's part of a frame -/

/-- What R270 asks of a voice: R25 (c) and (d), the ranges of R25 and R168, and a finite velocity gain while it is active. -/
structure Voice.Splits (v : Voice) : Prop where
  settled : v.settled
  ranged : v.Ranged
  gain : v.active = true → isFinite v.velgain = true

theorem addVoiceSample_of_inactive {v : Voice} (h : v.active = false) (fs : F32) (i : Nat) (acc : F32) :
    addVoiceSample fs i acc v = acc := by
  simp [addVoiceSample, h]

theorem addVoiceSample_of_active {v : Voice} (h : v.active = true) (fs : F32) (i : Nat) (acc : F32) :
    addVoiceSample fs i acc v =
      fadd acc (voiceSample ((voiceStep fs)^[i] v).phase (envNextSample ((voiceStep fs)^[i] v).env).level v.velgain) := if_pos h

/-- Frame `n + i` of one block has from a voice what frame `i` of a second block has, after a first block of `n` frames. -/
theorem addVoiceSample_add {fs : F32} (hfs : isFinite fs = true) (hpos : fgt fs fZero = true) {v : Voice} (hv : v.Splits) (n i : Nat)
    {acc : F32} (hacc : IsSum acc) :
    addVoiceSample fs (n + i) acc v = addVoiceSample fs i acc (voiceAfter fs n v) := by
  cases ha : v.active with
  | false => rw [voiceAfter_of_inactive ha, addVoiceSample_of_inactive ha, addVoiceSample_of_inactive ha]
  | true =>
    by_cases hs : (envNextSample^[n] v.env).stage = .idle
    · have hsilent := hv.settled.silentIdle
      have hlevel : (envNextSample (envNextSample^[n + i] v.env)).level = fZero := by
        rw [← Function.iterate_succ_apply' envNextSample, Nat.succ_eq_add_one, Nat.add_assoc,
          iterate_envNextSample_add_of_idle hsilent hs, silentIdle_iterate hsilent n hs]
      have hphase := inUnitOpen_phase_iterate hfs hpos hv.ranged.phase hv.ranged.freq (n + i)
      rw [voiceAfter_of_idle ha hs, addVoiceSample_of_active ha, addVoiceSample_of_inactive rfl, iterate_voiceStep_env, hlevel]
      exact fadd_of_isSum_of_zero hacc (voiceSample_zero hphase (hv.gain ha))
    · have hiter : (voiceStep fs)^[n + i] v = (voiceStep fs)^[i] ((voiceStep fs)^[n] v) := by
        rw [Nat.add_comm, Function.iterate_add_apply]
      rw [voiceAfter_of_sounding ha hs, addVoiceSample_of_active ha, addVoiceSample_of_active ((iterate_voiceStep_active fs n v).trans ha),
        hiter, iterate_voiceStep_velgain]

theorem isSum_addVoiceSample (fs : F32) (i : Nat) {acc : F32} (h : IsSum acc) (v : Voice) : IsSum (addVoiceSample fs i acc v) := by
  cases ha : v.active with
  | false => rwa [addVoiceSample_of_inactive ha]
  | true => rw [addVoiceSample_of_active ha]; exact isSum_fadd h _

/-- The synth sum of a frame, over all voices. -/
theorem synthSum_add {fs : F32} (hfs : isFinite fs = true) (hpos : fgt fs fZero = true) {vs : List Voice} (hvs : ∀ v ∈ vs, v.Splits)
    (n i : Nat) {acc : F32} (hacc : IsSum acc) :
    vs.foldl (addVoiceSample fs (n + i)) acc = (vs.map (voiceAfter fs n)).foldl (addVoiceSample fs i) acc := by
  induction vs generalizing acc with
  | nil => rw [List.map_nil, List.foldl_nil, List.foldl_nil]
  | cons v vs ih =>
    obtain ⟨hv, hrest⟩ := List.forall_mem_cons.1 hvs
    calc (v :: vs).foldl (addVoiceSample fs (n + i)) acc
        _ = (vs.map (voiceAfter fs n)).foldl (addVoiceSample fs i) (addVoiceSample fs (n + i) acc v) :=
          ih hrest (isSum_addVoiceSample fs (n + i) hacc v)
        _ = ((v :: vs).map (voiceAfter fs n)).foldl (addVoiceSample fs i) acc := by
          rw [addVoiceSample_add hfs hpos hv n i hacc, List.map_cons, List.foldl_cons]

end Sys2Proof.Machine
end

section
/-!
A pad voice over two blocks (spec/43_pad_sampler.md R210, spec/46_render_control.md R270). A block moves an active voice on by the frames it
has left, at most the block's, and stops it at the end of the buffer (`padVoiceAfter_of_ended`, `padVoiceAfter_of_playing`); so two blocks
leave it as one does and play the same frames (`padVoiceAfter_add`, `addPadSample_add`).
-/
namespace Sys2Proof.Machine

/-- The pad voice a block of `n` frames leaves (R210). -/
def padVoiceAfter (s : State) (n : Nat) (v : PadVoice) : PadVoice :=
  if v.active then padVoiceAdvance (padSlotOf s v) v (padFrames (padSlotOf s v) v n) else v

theorem padVoiceRender_fst (s : State) (n : Nat) (v : PadVoice) (mix : Mix) : (padVoiceRender s n v mix).1 = padVoiceAfter s n v := by
  unfold padVoiceRender padVoiceAfter
  split_ifs <;> rfl

theorem padRender_padVoices (s : State) (n : Nat) (vs : List PadVoice) (mix : Mix) :
    (padRender s n vs mix).1 = vs.map (padVoiceAfter s n) := by
  rw [padRender_fst]
  exact List.map_congr_left fun v _ => padVoiceRender_fst s n v []

/-- An active voice is at a frame of its buffer, and the buffer's frames are numbers of the s32 `POS` (R36). -/
structure PadVoice.Within (s : State) (v : PadVoice) : Prop where
  nonneg : 0 ≤ v.pos.toInt
  before_end : v.pos.toInt < (padSlotOf s v).frames.toNat
  frames : (padSlotOf s v).frames.toNat < 2 ^ 31

theorem PadInv.within_of_active {s : State} {v : PadVoice} (h : PadInv s) (hv : v ∈ s.padVoices) (hactive : v.active = true) :
    v.Within s := by
  obtain ⟨hplays, -⟩ := h.voices v hv
  obtain ⟨hloaded, hbefore⟩ := hplays hactive
  obtain ⟨hregion, -⟩ := h.slots _ (State.pad_mem_of_loaded hloaded)
  obtain ⟨-, hcap, -, -⟩ := hregion hloaded
  obtain ⟨-, -, -, -, -, hcapBound⟩ := h.params
  exact ⟨v.active_iff.1 hactive, hbefore, hcap.trans_lt hcapBound⟩

theorem padVoiceAfter_of_inactive {v : PadVoice} (h : v.active = false) (s : State) (n : Nat) : padVoiceAfter s n v = v := by
  simp [padVoiceAfter, h]

theorem PadVoice.stopped_inactive (v : PadVoice) : { v with pos := 0xFFFFFFFF#32 }.active = false :=
  show decide (0 ≤ (0xFFFFFFFF#32 : Word).toInt) = false by decide

theorem toInt_ofInt_of_frame {k : Int} (h0 : 0 ≤ k) (h : k < 2 ^ 31) : (BitVec.ofInt 32 k).toInt = k := by
  rw [BitVec.toInt_ofInt]
  exact Int.bmod_eq_of_le (by omega) (by omega)

section Playing

variable {s : State} {v : PadVoice} {n : Nat} (hv : v.Within s)
include hv

/-- A block that reaches the end of the buffer stops the voice. -/
theorem padVoiceAfter_of_ended (hend : ((padSlotOf s v).frames.toNat : Int) ≤ v.pos.toInt + n) :
    padVoiceAfter s n v = { v with pos := 0xFFFFFFFF#32 } := by
  obtain ⟨h0, hbefore, -⟩ := hv
  have hframes : padFrames (padSlotOf s v) v n = (padSlotOf s v).frames.toNat - v.pos.toInt := min_eq_left (by omega)
  rw [padVoiceAfter, if_pos (v.active_iff.2 h0), hframes, padVoiceAdvance, if_pos (by omega)]

/-- A block that ends before the buffer does moves the voice on by its frames. -/
theorem padVoiceAfter_of_playing (hmore : v.pos.toInt + n < (padSlotOf s v).frames.toNat) :
    padVoiceAfter s n v = { v with pos := BitVec.ofInt 32 (v.pos.toInt + n) } := by
  obtain ⟨h0, -, -⟩ := hv
  have hframes : padFrames (padSlotOf s v) v n = n := min_eq_right (by omega)
  rw [padVoiceAfter, if_pos (v.active_iff.2 h0), hframes, padVoiceAdvance, if_neg (by omega)]

theorem padVoiceAfter_pos_toInt (hmore : v.pos.toInt + n < (padSlotOf s v).frames.toNat) :
    (padVoiceAfter s n v).pos.toInt = v.pos.toInt + n := by
  obtain ⟨h0, -, hframes⟩ := id hv
  rw [padVoiceAfter_of_playing hv hmore]
  exact toInt_ofInt_of_frame (by omega) (by omega)

end Playing

theorem padVoiceAfter_src_gain (s : State) (n : Nat) (v : PadVoice) :
    (padVoiceAfter s n v).src = v.src ∧ (padVoiceAfter s n v).gain = v.gain := by
  simp only [padVoiceAfter, padVoiceAdvance]
  split_ifs <;> exact ⟨rfl, rfl⟩

theorem padSlotOf_padVoiceAfter (s : State) (n : Nat) (v : PadVoice) : padSlotOf s (padVoiceAfter s n v) = padSlotOf s v := by
  rw [padSlotOf, padSlotOf, (padVoiceAfter_src_gain s n v).1]

/-- The buffer ended in the block, or the voice is still at a frame of it. -/
theorem padVoiceAfter_cases {s : State} {v : PadVoice} (hv : v.Within s) (n : Nat) :
    (((padSlotOf s v).frames.toNat : Int) ≤ v.pos.toInt + n ∧ padVoiceAfter s n v = { v with pos := 0xFFFFFFFF#32 }) ∨
    (v.pos.toInt + n < (padSlotOf s v).frames.toNat ∧ (padVoiceAfter s n v).pos.toInt = v.pos.toInt + n ∧
      (padVoiceAfter s n v).Within s) := by
  rcases Int.lt_or_le (v.pos.toInt + n) (padSlotOf s v).frames.toNat with hmore | hend
  · have hpos := padVoiceAfter_pos_toInt hv hmore
    have hslot := padSlotOf_padVoiceAfter s n v
    obtain ⟨h0, -, hframes⟩ := hv
    exact .inr ⟨hmore, hpos, by omega, by rw [hslot, hpos]; exact hmore, by rwa [hslot]⟩
  · exact .inl ⟨hend, padVoiceAfter_of_ended hv hend⟩

/-- Two blocks leave a pad voice as one does. -/
theorem padVoiceAfter_add {s : State} {v : PadVoice} (hv : v.active = true → v.Within s) (n₁ n₂ : Nat) :
    padVoiceAfter s n₂ (padVoiceAfter s n₁ v) = padVoiceAfter s (n₁ + n₂) v := by
  cases ha : v.active with
  | false => simp only [padVoiceAfter_of_inactive ha]
  | true =>
    have hv := hv ha
    rcases padVoiceAfter_cases hv n₁ with ⟨hend, hstop⟩ | ⟨hmore, hpos, hwithin⟩
    · rw [hstop, padVoiceAfter_of_inactive v.stopped_inactive, padVoiceAfter_of_ended hv (by omega)]
    · have hslot := padSlotOf_padVoiceAfter s n₁ v
      rcases Int.lt_or_le (v.pos.toInt + (n₁ + n₂ : Nat)) (padSlotOf s v).frames.toNat with hplays | hends
      · rw [padVoiceAfter_of_playing hv hplays, padVoiceAfter_of_playing hwithin (by rw [hslot, hpos]; omega), hpos,
          padVoiceAfter_of_playing hv hmore]
        simp [Int.add_assoc]
      · rw [padVoiceAfter_of_ended hv hends, padVoiceAfter_of_ended hwithin (by rw [hslot, hpos]; omega),
          padVoiceAfter_of_playing hv hmore]

/-! ### The pads' part of a frame -/

/-- A frame of the first part of a block does not see how long the block is. -/
theorem addPadSample_of_lt {n₁ i : Nat} (hi : i < n₁) (s : State) (n₂ c : Nat) (acc : F32) (v : PadVoice) :
    addPadSample s (n₁ + n₂) c i acc v = addPadSample s n₁ c i acc v := by
  have hleft : (i : Int) < padFrames (padSlotOf s v) v (n₁ + n₂) ↔ (i : Int) < padFrames (padSlotOf s v) v n₁ := by
    simp only [padFrames]
    omega
  simp only [addPadSample, hleft]

theorem addPadSample_of_inactive {v : PadVoice} (h : v.active = false) (s : State) (n c i : Nat) (acc : F32) :
    addPadSample s n c i acc v = acc := by
  refine if_neg fun hplays => ?_
  rw [v.active_iff.2 hplays.1] at h
  cases h

/-- Frame `n₁ + i` of one block has from a pad voice what frame `i` of a second block has. -/
theorem addPadSample_add {s : State} {v : PadVoice} (hv : v.active = true → v.Within s) (n₁ n₂ c i : Nat) (acc : F32) :
    addPadSample s (n₁ + n₂) c (n₁ + i) acc v = addPadSample s n₂ c i acc (padVoiceAfter s n₁ v) := by
  cases ha : v.active with
  | false =>
    rw [padVoiceAfter_of_inactive ha, addPadSample_of_inactive ha, addPadSample_of_inactive ha]
  | true =>
    have hv := hv ha
    have hslot := padSlotOf_padVoiceAfter s n₁ v
    obtain ⟨-, hgain⟩ := padVoiceAfter_src_gain s n₁ v
    rcases padVoiceAfter_cases hv n₁ with ⟨hend, hstop⟩ | ⟨hmore, hpos, -⟩
    · have hover : ¬((n₁ + i : Nat) : Int) < padFrames (padSlotOf s v) v (n₁ + n₂) := by
        simp only [padFrames]
        omega
      rw [hstop, addPadSample_of_inactive v.stopped_inactive, addPadSample, if_neg fun h => hover h.2]
    · have haddr : padAddr (padSlotOf s v) (padVoiceAfter s n₁ v) i c = padAddr (padSlotOf s v) v (n₁ + i) c := by
        simp only [padAddr, hpos, Int.natCast_add, Int.add_assoc]
      have hplays : 0 ≤ v.pos.toInt ∧ ((n₁ + i : Nat) : Int) < padFrames (padSlotOf s v) v (n₁ + n₂) ↔
          0 ≤ (padVoiceAfter s n₁ v).pos.toInt ∧ (i : Int) < padFrames (padSlotOf s v) (padVoiceAfter s n₁ v) n₂ := by
        simp only [padFrames, hpos]
        have := hv.nonneg
        omega
      simp only [addPadSample, hslot, hgain, haddr, hplays]

/-- The pad sum of a frame, over all pad voices. -/
theorem padSum_add {s : State} {vs : List PadVoice} (hvs : ∀ v ∈ vs, v.active = true → v.Within s) (n₁ n₂ c i : Nat) (acc : F32) :
    vs.foldl (addPadSample s (n₁ + n₂) c (n₁ + i)) acc = (vs.map (padVoiceAfter s n₁)).foldl (addPadSample s n₂ c i) acc := by
  rw [List.foldl_map]
  exact List.foldl_ext _ _ _ fun acc v hv => addPadSample_add (hvs v hv) n₁ n₂ c i acc

/-! ### R36 after a block -/

/-- A block keeps R36: a voice that it does not stop is still at a frame of its buffer. -/
theorem padInv_renderBlock {s : State} (h : PadInv s) (n : Nat) : PadInv (renderBlock s n) := by
  refine ⟨h.params, h.slots, fun w hw => ?_⟩
  rw [renderBlock_padVoices, renderPads, padRender_padVoices] at hw
  obtain ⟨v, hv, rfl⟩ := List.mem_map.1 hw
  cases ha : v.active with
  | false =>
    rw [padVoiceAfter_of_inactive ha]
    exact h.voices v hv
  | true =>
    obtain ⟨hplays, -⟩ := h.voices v hv
    rcases padVoiceAfter_cases (h.within_of_active hv ha) n with ⟨-, hstop⟩ | ⟨-, -, hwithin⟩
    · rw [hstop]
      exact ⟨fun hactive => absurd hactive (by simp [v.stopped_inactive]), fun _ => rfl⟩
    · have hloaded : (s.pad (padVoiceAfter s n v).src.toNat).loaded = true := by
        rw [(padVoiceAfter_src_gain s n v).1]
        exact (hplays ha).1
      have hactive := (padVoiceAfter s n v).active_iff.2 hwithin.nonneg
      exact ⟨fun _ => ⟨hloaded, hwithin.before_end⟩, fun hidle => absurd hactive (by simp [hidle])⟩

end Sys2Proof.Machine
end

section
/-!
Blocks put end to end (spec/46_render_control.md R270: "every stage is a per-frame recurrence over state that persists"). `Mix.join` puts
the frames of a second block after those of a first on every channel. Each stage of the chain carries a joined block to the join of what it
makes of the first block and of what it makes of the second with the state the first left.
-/
namespace Sys2Proof.Machine

/-- A mix buffer of `nch` channels and `n` frames. -/
structure Mix.Shaped (nch n : Nat) (mix : Mix) : Prop where
  channels : mix.length = nch
  frames : ∀ row ∈ mix, row.length = n

/-- The frames of one block followed by those of another, on every channel. -/
def Mix.join (a b : Mix) : Mix := List.zipWith (· ++ ·) a b

theorem Mix.Shaped.row {nch n c : Nat} {mix : Mix} (h : Mix.Shaped nch n mix) (hc : c < nch) : (mix.getD c []).length = n := by
  have hlt : c < mix.length := h.channels ▸ hc
  rw [List.getD_eq_getElem _ _ hlt]
  exact h.frames _ (List.getElem_mem hlt)

theorem Mix.Shaped.lt_row {nch n c i : Nat} {mix : Mix} (h : Mix.Shaped nch n mix) (hc : c < nch) (hi : i < n) :
    i < (mix.getD c []).length :=
  hi.trans_eq (h.row hc).symm

theorem Mix.join_row {nch n₁ n₂ : Nat} {a b : Mix} (ha : Mix.Shaped nch n₁ a) (hb : Mix.Shaped nch n₂ b) (c : Nat) :
    (Mix.join a b).getD c [] = a.getD c [] ++ b.getD c [] := by
  rcases Nat.lt_or_ge c nch with hc | hc
  · have hca : c < a.length := ha.channels ▸ hc
    have hcb : c < b.length := hb.channels ▸ hc
    have hcj : c < (List.zipWith (· ++ ·) a b).length := by rw [List.length_zipWith]; omega
    rw [Mix.join, List.getD_eq_getElem _ _ hcj, List.getElem_zipWith, List.getD_eq_getElem _ _ hca, List.getD_eq_getElem _ _ hcb]
  · have hca : a.length ≤ c := ha.channels ▸ hc
    have hcb : b.length ≤ c := hb.channels ▸ hc
    have hcj : (List.zipWith (· ++ ·) a b).length ≤ c := by rw [List.length_zipWith]; omega
    rw [Mix.join, List.getD_eq_default _ _ hcj, List.getD_eq_default _ _ hca, List.getD_eq_default _ _ hcb, List.nil_append]

/-- A row of `n₁ + n₂` frames is told by its first `n₁` and its last `n₂`. -/
theorem row_eq_append {xs ys zs : List F32} (hlen : xs.length = ys.length + zs.length)
    (hfirst : ∀ i < ys.length, xs.getD i fZero = ys.getD i fZero)
    (hsecond : ∀ i < zs.length, xs.getD (ys.length + i) fZero = zs.getD i fZero) : xs = ys ++ zs := by
  refine List.ext_getElem (by rw [hlen, List.length_append]) fun i hx hyz => ?_
  rw [← List.getD_eq_getElem xs fZero hx, ← List.getD_eq_getElem _ fZero hyz]
  rcases Nat.lt_or_ge i ys.length with hi | hi
  · rw [hfirst i hi, List.getD_append _ _ _ _ hi]
  · obtain ⟨j, rfl⟩ := Nat.exists_eq_add_of_le hi
    rw [hsecond j (by omega), List.getD_append_right _ _ _ _ hi, Nat.add_sub_cancel_left]

/-- A block is told by its frames. -/
theorem Mix.Shaped.eq_join {nch n₁ n₂ : Nat} {m a b : Mix} (hm : Mix.Shaped nch (n₁ + n₂) m) (ha : Mix.Shaped nch n₁ a)
    (hb : Mix.Shaped nch n₂ b) (hfirst : ∀ c < nch, ∀ i < n₁, (m.getD c []).getD i fZero = (a.getD c []).getD i fZero)
    (hsecond : ∀ c < nch, ∀ i < n₂, (m.getD c []).getD (n₁ + i) fZero = (b.getD c []).getD i fZero) : m = Mix.join a b := by
  have hlen : (Mix.join a b).length = nch := by
    rw [Mix.join, List.length_zipWith, ha.channels, hb.channels, Nat.min_self]
  refine List.ext_getElem (hm.channels.trans hlen.symm) fun c hcm hcj => ?_
  have hc : c < nch := hm.channels ▸ hcm
  rw [← List.getD_eq_getElem m [] hcm, ← List.getD_eq_getElem _ [] hcj, Mix.join_row ha hb]
  refine row_eq_append (by rw [hm.row hc, ha.row hc, hb.row hc]) (fun i hi => ?_) (fun i hi => ?_)
  · exact hfirst c hc i (ha.row hc ▸ hi)
  · rw [ha.row hc]
    exact hsecond c hc i (hb.row hc ▸ hi)

/-! ### Every stage keeps the shape of a block -/

theorem shaped_clearMix (nch n : Nat) : Mix.Shaped nch n (clearMix nch n) := ⟨clearMix_length nch n, clearMix_row nch n⟩

theorem shaped_map {nch n m : Nat} {mix : Mix} (h : Mix.Shaped nch n mix) {f : List F32 → List F32}
    (hf : ∀ row, row.length = n → (f row).length = m) : Mix.Shaped nch m (mix.map f) :=
  ⟨by rw [List.length_map, h.channels], List.forall_mem_map.2 fun row hrow => hf row (h.frames row hrow)⟩

theorem shaped_channels {nch n : Nat} {f : Nat → List F32} (hf : ∀ c < nch, (f c).length = n) :
    Mix.Shaped nch n ((List.range nch).map f) :=
  ⟨by rw [List.length_map, List.length_range], List.forall_mem_map.2 fun c hc => hf c (List.mem_range.1 hc)⟩

theorem shaped_scaleMix {nch n : Nat} {mix : Mix} (h : Mix.Shaped nch n mix) (g : F32) : Mix.Shaped nch n (scaleMix g mix) :=
  shaped_map h fun row hrow => by rw [List.length_map, hrow]

theorem shaped_voiceRender {nch n : Nat} {mix : Mix} (h : Mix.Shaped nch n mix) (fs : F32) (k : Nat) (v : Voice) :
    Mix.Shaped nch n (voiceRender fs k v mix).2 := by
  unfold voiceRender
  split_ifs
  · exact shaped_map h fun row hrow => by rw [addInto_length, hrow]
  · exact h

theorem shaped_synthRender {nch n : Nat} (fs : F32) (k : Nat) (vs : List Voice) {mix : Mix} (h : Mix.Shaped nch n mix) :
    Mix.Shaped nch n (synthRender fs k vs mix).2 := by
  induction vs generalizing mix with
  | nil => exact h
  | cons v vs ih => exact ih (shaped_voiceRender h fs k v)

theorem shaped_padVoiceRender {s : State} {n : Nat} {mix : Mix} (h : Mix.Shaped s.params.nch n mix) (k : Nat) (v : PadVoice) :
    Mix.Shaped s.params.nch n (padVoiceRender s k v mix).2 := by
  unfold padVoiceRender
  split_ifs
  · exact shaped_channels fun c hc => by rw [addInto_length, h.row hc]
  · exact h

theorem shaped_padRender {s : State} {n : Nat} (k : Nat) (vs : List PadVoice) {mix : Mix} (h : Mix.Shaped s.params.nch n mix) :
    Mix.Shaped s.params.nch n (padRender s k vs mix).2 := by
  induction vs generalizing mix with
  | nil => exact h
  | cons v vs ih => exact ih (shaped_padVoiceRender h k v)

theorem shaped_widthApply {nch n : Nat} {mix : Mix} (h : Mix.Shaped nch n mix) (k : Nat) (mid side : F32) :
    Mix.Shaped nch n (widthApply k mid side mix) := by
  unfold widthApply
  split_ifs
  · match mix, h with
    | [], h => exact h
    | [_], h => exact h
    | l :: r :: rest, h =>
      obtain ⟨hl, hr, hrest⟩ : l.length = n ∧ r.length = n ∧ ∀ row ∈ rest, row.length = n := by simpa using h.frames
      exact ⟨h.channels, by simp [hl, hr]; exact hrest⟩
  · exact h

theorem shaped_filterMix {nch n : Nat} {mix : Mix} (h : Mix.Shaped nch n mix) (k : Coefs) (flt : List Biquad) :
    Mix.Shaped nch n (filterMix nch k flt mix) :=
  shaped_channels fun c hc => by rw [filterRow_length, h.row hc]

theorem shaped_zipWith_cons {nch n : Nat} {frame : List F32} {mix : Mix} (hframe : frame.length = nch) (h : Mix.Shaped nch n mix) :
    Mix.Shaped nch (n + 1) (List.zipWith List.cons frame mix) := by
  refine ⟨by rw [List.length_zipWith, hframe, h.channels, Nat.min_self], fun row hrow => ?_⟩
  obtain ⟨c, hc, rfl⟩ := List.mem_iff_getElem.1 hrow
  rw [List.getElem_zipWith, List.length_cons, h.frames _ (List.getElem_mem _)]

theorem shaped_reverbApply (p : Params) (rp : ReverbParams) (n : Nat) (rvs : Rvs) {mix : Mix} (h : Mix.Shaped p.nch n mix) :
    Mix.Shaped p.nch n (reverbApply p rp n rvs mix).2 := by
  induction n generalizing rvs mix with
  | zero => exact shaped_map h fun _ _ => rfl
  | succ n ih =>
    refine shaped_zipWith_cons (reverbFn_length _ _ _ _ (by rw [List.length_map, h.channels])) (ih _ ?_)
    exact shaped_map h fun row hrow => by rw [List.length_tail, hrow, Nat.add_sub_cancel]

/-! ### Every stage on joined blocks -/

theorem scaleMix_join (g : F32) (a b : Mix) : scaleMix g (Mix.join a b) = Mix.join (scaleMix g a) (scaleMix g b) := by
  simp only [scaleMix, Mix.join, List.map_zipWith, List.zipWith_map, List.map_append]

/-- The stereo matrix works frame by frame (R222). -/
theorem widthApply_join {nch n₁ n₂ : Nat} {a b : Mix} (ha : Mix.Shaped nch n₁ a) (hb : Mix.Shaped nch n₂ b) (k : Nat) (mid side : F32) :
    widthApply k mid side (Mix.join a b) = Mix.join (widthApply k mid side a) (widthApply k mid side b) := by
  have hsame : a.length = b.length := ha.channels.trans hb.channels.symm
  unfold widthApply
  split_ifs
  · match a, b, ha, hsame with
    | [], [], _, _ => rfl
    | [_], [_], _, _ => rfl
    | l :: r :: rest, l' :: r' :: rest', ha, _ =>
      have hl : l.length = r.length := (ha.frames l (by simp)).trans (ha.frames r (by simp)).symm
      simp only [Mix.join, List.zipWith_cons_cons, List.zipWith_append hl]
  · rfl

theorem join_channels (nch : Nat) (f g : Nat → List F32) :
    Mix.join ((List.range nch).map f) ((List.range nch).map g) = (List.range nch).map (fun c => f c ++ g c) := by
  rw [Mix.join, List.zipWith_map, List.zipWith_self]

theorem filterState_getD {nch c : Nat} (hc : c < nch) (k : Coefs) (flt : List Biquad) (mix : Mix) :
    (filterState nch k flt mix).getD c Biquad.zero = (filterRow k (flt.getD c Biquad.zero) (mix.getD c [])).2 := by
  simp [filterState, List.getD_eq_getElem?_getD, hc]

/-- The filter state after two blocks is that after the joined one (R236). -/
theorem filterState_join {nch n₁ n₂ : Nat} {a b : Mix} (ha : Mix.Shaped nch n₁ a) (hb : Mix.Shaped nch n₂ b) (k : Coefs)
    (flt : List Biquad) :
    filterState nch k flt (Mix.join a b) = filterState nch k (filterState nch k flt a) b := by
  refine List.map_congr_left fun c hc => ?_
  rw [Mix.join_row ha hb, filterRow_append, filterState_getD (List.mem_range.1 hc)]

theorem filterMix_join {nch n₁ n₂ : Nat} {a b : Mix} (ha : Mix.Shaped nch n₁ a) (hb : Mix.Shaped nch n₂ b) (k : Coefs)
    (flt : List Biquad) :
    filterMix nch k flt (Mix.join a b) = Mix.join (filterMix nch k flt a) (filterMix nch k (filterState nch k flt a) b) := by
  rw [filterMix, filterMix, filterMix, join_channels]
  refine List.map_congr_left fun c hc => ?_
  rw [Mix.join_row ha hb, filterRow_append, filterState_getD (List.mem_range.1 hc)]

/-- The first frame of joined blocks is that of the first block, when it has one. -/
theorem map_headD_join {nch n₁ n₂ : Nat} {a b : Mix} (ha : Mix.Shaped nch (n₁ + 1) a) (hb : Mix.Shaped nch n₂ b) :
    (Mix.join a b).map (fun row => row.headD 0#32) = a.map (fun row => row.headD 0#32) := by
  refine List.ext_getElem (by simp [Mix.join, ha.channels, hb.channels]) fun c hc hca => ?_
  simp only [Mix.join, List.getElem_map, List.getElem_zipWith]
  obtain ⟨x, xs, hrow⟩ := List.exists_cons_of_length_eq_add_one (ha.frames _ (List.getElem_mem (List.length_map .. ▸ hca)))
  rw [hrow, List.cons_append, List.headD_cons, List.headD_cons]

theorem map_tail_join {nch n : Nat} {a : Mix} (ha : Mix.Shaped nch (n + 1) a) (b : Mix) :
    (Mix.join a b).map List.tail = Mix.join (a.map List.tail) b := by
  refine List.ext_getElem (by simp [Mix.join]) fun c hc _ => ?_
  have hca : c < a.length := by
    rw [List.length_map, Mix.join, List.length_zipWith] at hc
    omega
  simp only [Mix.join, List.getElem_map, List.getElem_zipWith]
  obtain ⟨x, xs, hrow⟩ := List.exists_cons_of_length_eq_add_one (ha.frames _ (List.getElem_mem hca))
  rw [hrow, List.cons_append, List.tail_cons, List.tail_cons]

/-- A block of no frames in front changes nothing. -/
theorem join_of_no_frames {nch n : Nat} {a b : Mix} (ha : Mix.Shaped nch 0 a) (hb : Mix.Shaped nch n b) : Mix.join a b = b := by
  refine List.ext_getElem (by simp [Mix.join, ha.channels, hb.channels]) fun c hc _ => ?_
  have hca : c < a.length := by
    rw [Mix.join, List.length_zipWith] at hc
    omega
  have hrow := List.length_eq_zero_iff.1 (ha.frames _ (List.getElem_mem hca))
  simp only [Mix.join, List.getElem_zipWith, hrow, List.nil_append]

/-- A frame put in front of the first block is put in front of the joined block. -/
theorem zipWith_cons_join (frame : List F32) (a b : Mix) :
    List.zipWith List.cons frame (Mix.join a b) = Mix.join (List.zipWith List.cons frame a) b := by
  refine List.ext_getElem (by simp [Mix.join, Nat.min_assoc]) fun c _ _ => ?_
  simp only [Mix.join, List.getElem_zipWith, List.cons_append]

/-- One frame through the reverb insert, then the others (R245). -/
theorem reverbApply_succ (p : Params) (rp : ReverbParams) (n : Nat) (rvs : Rvs) (mix : Mix) :
    reverbApply p rp (n + 1) rvs mix =
      ((reverbApply p rp n (reverbFn p rp rvs (mix.map (fun row => row.headD 0#32))).1 (mix.map List.tail)).1,
       List.zipWith List.cons (reverbFn p rp rvs (mix.map (fun row => row.headD 0#32))).2
         (reverbApply p rp n (reverbFn p rp rvs (mix.map (fun row => row.headD 0#32))).1 (mix.map List.tail)).2) := rfl

/-- The reverb insert goes through the frames of the second block from the state that the first left (R245). -/
theorem reverbApply_join (p : Params) (rp : ReverbParams) (n₁ n₂ : Nat) (rvs : Rvs) {a b : Mix} (ha : Mix.Shaped p.nch n₁ a)
    (hb : Mix.Shaped p.nch n₂ b) :
    reverbApply p rp (n₁ + n₂) rvs (Mix.join a b) =
      ((reverbApply p rp n₂ (reverbApply p rp n₁ rvs a).1 b).1,
       Mix.join (reverbApply p rp n₁ rvs a).2 (reverbApply p rp n₂ (reverbApply p rp n₁ rvs a).1 b).2) := by
  induction n₁ generalizing rvs a with
  | zero =>
    rw [Nat.zero_add, join_of_no_frames ha hb,
      join_of_no_frames (shaped_reverbApply p rp 0 rvs ha) (shaped_reverbApply p rp n₂ _ hb)]
    rfl
  | succ n₁ ih =>
    have htail : Mix.Shaped p.nch n₁ (a.map List.tail) :=
      shaped_map ha fun row hrow => by rw [List.length_tail, hrow, Nat.add_sub_cancel]
    rw [Nat.add_right_comm, reverbApply_succ, reverbApply_succ, map_headD_join ha hb, map_tail_join ha b, ih _ htail, zipWith_cons_join]

end Sys2Proof.Machine
end

section
/-!
Splitting a block (spec/46_render_control.md R270). A frame of the mix before the stereo matrix is a sum over the voices and the pad voices
(`renderPads_getD`), so the mix of one block is that of two blocks end to end (`renderPads_add`); the stages after it keep this
(`renderWidth_add`, `renderFilter_add`, `renderReverb_add`, `renderOut_add`), and the state they leave is the same.
-/
namespace Sys2Proof.Machine

/-! ### The mix of one block, frame by frame -/

theorem shaped_renderSynth (s : State) (n : Nat) : Mix.Shaped s.params.nch n (renderSynth s n).2 :=
  shaped_scaleMix (shaped_synthRender s.fs n s.voices (shaped_clearMix s.params.nch n)) s.regs.synthLevel

theorem shaped_renderPads (s : State) (n : Nat) : Mix.Shaped s.params.nch n (renderPads s n).2 :=
  shaped_padRender n s.padVoices (shaped_renderSynth s n)

theorem shaped_renderWidth (s : State) (n : Nat) : Mix.Shaped s.params.nch n (renderWidth s n) :=
  shaped_widthApply (shaped_renderPads s n) _ _ _

theorem shaped_renderFilter (s : State) (n : Nat) : Mix.Shaped s.params.nch n (renderFilter s n) :=
  shaped_filterMix (shaped_renderWidth s n) _ _

theorem shaped_renderReverb (s : State) (n : Nat) : Mix.Shaped s.params.nch n (renderReverb s n).2 :=
  shaped_reverbApply s.params _ n s.rvs (shaped_renderFilter s n)

theorem shaped_renderOut (s : State) (n : Nat) : Mix.Shaped s.params.nch n (renderOut s n) :=
  shaped_scaleMix (shaped_renderReverb s n) _

theorem scaleMix_getD {mix : Mix} {c i : Nat} (g : F32) (hi : i < (mix.getD c []).length) :
    ((scaleMix g mix).getD c []).getD i fZero = fmul ((mix.getD c []).getD i fZero) g := by
  have hrow : (scaleMix g mix).getD c [] = (mix.getD c []).map (fun x => fmul x g) := List.getD_map mix [] (List.map (fun x => fmul x g))
  rw [hrow, List.getD_eq_getElem _ _ (by rwa [List.length_map]), List.getElem_map, List.getD_eq_getElem _ _ hi]

/-- A frame of the synth's part: the voices' sum, scaled (R262). -/
theorem renderSynth_getD {s : State} {n c i : Nat} (hc : c < s.params.nch) (hi : i < n) :
    ((renderSynth s n).2.getD c []).getD i fZero = fmul (s.voices.foldl (addVoiceSample s.fs i) fZero) s.regs.synthLevel := by
  have hclear := shaped_clearMix s.params.nch n
  have hsynth := shaped_synthRender s.fs n s.voices hclear
  rw [renderSynth, scaleMix_getD _ (hsynth.lt_row hc hi), synthRender_getD s.fs s.voices hi (hclear.lt_row hc hi), clearMix_getD hc,
    getD_replicate_default]

/-- A frame of the mix before the stereo matrix (R262, R263). -/
theorem renderPads_getD {s : State} {n c i : Nat} (hc : c < s.params.nch) (hi : i < n) :
    ((renderPads s n).2.getD c []).getD i fZero =
      s.padVoices.foldl (addPadSample s n c i) (fmul (s.voices.foldl (addVoiceSample s.fs i) fZero) s.regs.synthLevel) := by
  rw [renderPads, padRender_getD n s.padVoices hc ((shaped_renderSynth s n).lt_row hc hi), renderSynth_getD hc hi]

/-! ### The voices a block leaves -/

theorem renderBlock_voices_eq (s : State) (n : Nat) : (renderBlock s n).voices = s.voices.map (voiceAfter s.fs n) :=
  synthRender_voices s.fs n s.voices _

theorem renderBlock_padVoices_eq (s : State) (n : Nat) : (renderBlock s n).padVoices = s.padVoices.map (padVoiceAfter s n) :=
  padRender_padVoices s n s.padVoices _

theorem renderBlock_voice (s : State) (n k : Nat) : (renderBlock s n).voice k = voiceAfter s.fs n (s.voice k) := by
  rw [State.voice, renderBlock_voices_eq]
  exact List.getD_map s.voices Voice.zero (voiceAfter s.fs n)

/-- What the pads play depends on the slots and on pad sample memory, which a block does not write. -/
theorem addPadSample_renderBlock (s : State) (m : Nat) : addPadSample (renderBlock s m) = addPadSample s := rfl

theorem padVoiceAfter_renderBlock (s : State) (m : Nat) : padVoiceAfter (renderBlock s m) = padVoiceAfter s := rfl

theorem voice_settled {s : State} (h : VoicesSettled s) (k : Nat) : (s.voice k).settled := by
  rcases Nat.lt_or_ge k s.voices.length with hk | hk
  · rw [State.voice, List.getD_eq_getElem _ _ hk]
    exact h _ (List.getElem_mem hk)
  · rw [State.voice, List.getD_eq_default _ _ hk]
    exact ⟨fun _ => ⟨rfl, rfl⟩, fun h => absurd h (by decide)⟩

/-- What R270 asks of one voice, over the three things that can have happened to it by the end of the first block. -/
theorem voiceAfter_split (fs : F32) (n₁ n₂ : Nat) {v : Voice} (hv : v.settled) :
    (v.active = false ∨ (voiceAfter fs n₁ v).active = true → voiceAfter fs n₂ (voiceAfter fs n₁ v) = voiceAfter fs (n₁ + n₂) v) ∧
    { (voiceAfter fs n₂ (voiceAfter fs n₁ v)) with phase := (voiceAfter fs (n₁ + n₂) v).phase } = voiceAfter fs (n₁ + n₂) v ∧
    ((voiceAfter fs (n₁ + n₂) v).active = true → voiceAfter fs n₂ (voiceAfter fs n₁ v) = voiceAfter fs (n₁ + n₂) v) := by
  by_cases hfreed : v.active = true ∧ (envNextSample^[n₁] v.env).stage = .idle
  · obtain ⟨ha, hs⟩ := hfreed
    have hone := voiceAfter_add_of_freed (fs := fs) (n₂ := n₂) ha hv.silentIdle hs
    have hfirst : (voiceAfter fs n₁ v).active = false := by rw [voiceAfter_of_idle ha hs]
    have hinactive : (voiceAfter fs (n₁ + n₂) v).active = false := by rw [← hone, voiceAfter_of_inactive hfirst, hfirst]
    exact ⟨fun h => absurd h (by simp [ha, hfirst]), hone, fun h => absurd h (by simp [hinactive])⟩
  · have hsame : voiceAfter fs n₂ (voiceAfter fs n₁ v) = voiceAfter fs (n₁ + n₂) v :=
      voiceAfter_add fun ha hs => hfreed ⟨ha, hs⟩
    exact ⟨fun _ => hsame, by rw [hsame], fun _ => hsame⟩

/-! ### Two blocks end to end -/

/-- The states of which R270 speaks: a valid sample rate, R36, and of every voice what R270 asks. -/
structure Splittable (s : State) : Prop where
  fs_finite : isFinite s.fs = true
  fs_pos : fgt s.fs fZero = true
  voices : ∀ v ∈ s.voices, v.Splits
  pads : PadInv s

section Splittable

variable {s : State} (h : Splittable s) (n₁ n₂ : Nat)
include h

theorem renderPads_add : (renderPads s (n₁ + n₂)).2 = Mix.join (renderPads s n₁).2 (renderPads (renderBlock s n₁) n₂).2 := by
  refine (shaped_renderPads s (n₁ + n₂)).eq_join (shaped_renderPads s n₁) (shaped_renderPads (renderBlock s n₁) n₂)
    (fun c hc i hi => ?first) (fun c hc i hi => ?second)
  case first =>
    rw [renderPads_getD hc (Nat.lt_add_right n₂ hi), renderPads_getD hc hi]
    exact List.foldl_ext _ _ _ fun acc v _ => addPadSample_of_lt hi s n₂ c acc v
  case second =>
    have hpads (v : PadVoice) (hv : v ∈ s.padVoices) : v.active = true → v.Within s := h.pads.within_of_active hv
    rw [renderPads_getD hc (Nat.add_lt_add_left hi n₁), renderPads_getD (s := renderBlock s n₁) hc hi,
      padSum_add hpads, synthSum_add h.fs_finite h.fs_pos h.voices n₁ i isSum_fZero, renderBlock_padVoices_eq, renderBlock_voices_eq,
      addPadSample_renderBlock, renderBlock_fs, renderBlock_regs]

theorem renderBlock_padVoices_add : (renderBlock (renderBlock s n₁) n₂).padVoices = (renderBlock s (n₁ + n₂)).padVoices := by
  rw [renderBlock_padVoices_eq, renderBlock_padVoices_eq, renderBlock_padVoices_eq, padVoiceAfter_renderBlock, List.map_map]
  exact List.map_congr_left fun v hv => padVoiceAfter_add (h.pads.within_of_active hv) n₁ n₂

theorem renderWidth_add : renderWidth s (n₁ + n₂) = Mix.join (renderWidth s n₁) (renderWidth (renderBlock s n₁) n₂) := by
  rw [renderWidth, renderPads_add h]
  exact widthApply_join (shaped_renderPads s n₁) (shaped_renderPads (renderBlock s n₁) n₂) _ _ _

theorem renderFilter_add : renderFilter s (n₁ + n₂) = Mix.join (renderFilter s n₁) (renderFilter (renderBlock s n₁) n₂) := by
  rw [renderFilter, renderWidth_add h]
  exact filterMix_join (shaped_renderWidth s n₁) (shaped_renderWidth (renderBlock s n₁) n₂) _ _

theorem renderBlock_flt_add : (renderBlock (renderBlock s n₁) n₂).flt = (renderBlock s (n₁ + n₂)).flt := by
  rw [renderBlock_flt s, renderWidth_add h]
  exact (filterState_join (shaped_renderWidth s n₁) (shaped_renderWidth (renderBlock s n₁) n₂) _ _).symm

theorem renderReverb_add :
    renderReverb s (n₁ + n₂) =
      ((renderReverb (renderBlock s n₁) n₂).1, Mix.join (renderReverb s n₁).2 (renderReverb (renderBlock s n₁) n₂).2) := by
  rw [renderReverb, renderFilter_add h]
  exact reverbApply_join s.params _ n₁ n₂ s.rvs (shaped_renderFilter s n₁) (shaped_renderFilter (renderBlock s n₁) n₂)

theorem renderBlock_rvs_add : (renderBlock (renderBlock s n₁) n₂).rvs = (renderBlock s (n₁ + n₂)).rvs := by
  rw [renderBlock_rvs s, renderReverb_add h, renderBlock_rvs]

theorem renderOut_add : renderOut s (n₁ + n₂) = Mix.join (renderOut s n₁) (renderOut (renderBlock s n₁) n₂) := by
  rw [renderOut, renderReverb_add h]
  exact scaleMix_join _ _ _

/-- Two blocks leave the state of one but for the synth voices and the output. -/
theorem renderBlock_add_frame :
    renderBlock (renderBlock s n₁) n₂ =
      { renderBlock s (n₁ + n₂) with
        voices := (renderBlock (renderBlock s n₁) n₂).voices
        out := (renderBlock (renderBlock s n₁) n₂).out
        outCount := (renderBlock (renderBlock s n₁) n₂).outCount } := by
  calc renderBlock (renderBlock s n₁) n₂
      _ = { renderBlock (renderBlock s n₁) n₂ with
            padVoices := (renderBlock s (n₁ + n₂)).padVoices
            flt := (renderBlock s (n₁ + n₂)).flt
            rvs := (renderBlock s (n₁ + n₂)).rvs } := by
        rw [← renderBlock_padVoices_add h, ← renderBlock_flt_add h, ← renderBlock_rvs_add h]
      _ = _ := rfl

end Splittable

/-! ### The output -/

/-- What a block writes (R267). -/
theorem renderBlock_outWord {s : State} {n c i : Nat} (hc : c < s.params.nch) (hi : i < n) :
    (renderBlock s n).outWord c i = ((renderOut s n).getD c []).getD i fZero := by
  have hrow : (renderBlock s n).out.getD c [] = Memory.storeBlock (s.out.getD c []) ((renderOut s n).getD c []) := by
    rw [renderBlock_out]
    simp [List.getD_eq_getElem?_getD, hc]
  rw [State.outWord, hrow, Memory.readOut_storeBlock_lt _ _ _ ((shaped_renderOut s n).lt_row hc hi)]
  rfl

/-- The frames of one block are those of the first of two, and then those of the second. -/
theorem outWord_add {s : State} (h : Splittable s) (n₁ n₂ : Nat) {c : Nat} (hc : c < s.params.nch) :
    (∀ i < n₁, (renderBlock s n₁).outWord c i = (renderBlock s (n₁ + n₂)).outWord c i) ∧
    (∀ i < n₂, (renderBlock (renderBlock s n₁) n₂).outWord c i = (renderBlock s (n₁ + n₂)).outWord c (n₁ + i)) := by
  have hrow : (renderOut s (n₁ + n₂)).getD c [] = (renderOut s n₁).getD c [] ++ (renderOut (renderBlock s n₁) n₂).getD c [] := by
    rw [renderOut_add h, Mix.join_row (shaped_renderOut s n₁) (shaped_renderOut (renderBlock s n₁) n₂)]
  have hout := shaped_renderOut s n₁
  refine ⟨fun i hi => ?first, fun i hi => ?second⟩
  case first =>
    rw [renderBlock_outWord hc hi, renderBlock_outWord hc (Nat.lt_add_right n₂ hi), hrow, List.getD_append _ _ _ _ (hout.lt_row hc hi)]
  case second =>
    rw [renderBlock_outWord (s := renderBlock s n₁) hc hi, renderBlock_outWord hc (Nat.add_lt_add_left hi n₁), hrow,
      List.getD_append_right _ _ _ _ ((hout.row hc).trans_le (Nat.le_add_right n₁ i)), hout.row hc, Nat.add_sub_cancel_left]

/-- Settles O42: the output is `outWord_add`, the state `renderBlock_add_frame`, and the synth voices are taken one by one. -/
theorem splitBlockGivesTheSameAudio : Obligations.SplitBlockGivesTheSameAudio := by
  intro s n₁ n₂ _ hsettled hrange hpads hp hq hgain hn one first second
  obtain ⟨hfsFinite, hfsPos, -, -⟩ := hrange.prepared hq
  have h : Splittable s := ⟨hfsFinite, hfsPos, fun v hv => ⟨hsettled v hv, hrange.voices v hv, hgain v hv⟩, hpads⟩
  refine ⟨execRender_of_checks hp hq hn (hpads.readsExist _), execRender_of_checks hp hq (by omega) (hpads.readsExist _),
    execRender_of_checks (s := first) hp hq (show n₂ ≤ s.maxBlock.toNat by omega) ((padInv_renderBlock hpads n₁).readsExist _),
    fun c hc => outWord_add h n₁ n₂ hc, renderBlock_add_frame h n₁ n₂, ?length, fun k => ?voices⟩
  case length => simp only [second, first, one, renderBlock_voices_eq, List.length_map]
  case voices =>
    simp only [second, first, one, renderBlock_voice, renderBlock_fs]
    exact voiceAfter_split s.fs n₁ n₂ (voice_settled hsettled k)

end Sys2Proof.Machine
end

section
/-!
`NOP` (spec/47_system.md R275). Every row of the opcode table keeps the whole opcode field (`opcode_of_selects`) and only the row of `NOP`
has opcode 0 (`nopRow_of_opcode`), so the zero word is the one word of that opcode that decodes. A step that finds a `NOP` in the one
filled queue is that queue's pop (`popCommand_p0_alone`, `popCommand_p1_alone`) and nothing else (`step_nop`).
-/
namespace Sys2Proof.Machine

/-! ### The words of opcode 0 (R119, R121) -/

theorem opcodeTable_mask_keeps_opcode : ∀ r ∈ opcodeTable, r.mask.extractLsb' 56 8 = BitVec.allOnes 8 := by decide

/-- A word that selects a row has the row's opcode. -/
theorem opcode_of_selects {r : OpcodeRow} {w : Cmd} (hr : r ∈ opcodeTable) (hw : w &&& r.mask = r.pattern) :
    r.pattern.extractLsb' 56 8 = w.extractLsb' 56 8 := by
  rw [← hw, BitVec.extractLsb'_and, opcodeTable_mask_keeps_opcode r hr, BitVec.and_allOnes]

/-- The row of opcode 0 is that of `NOP`, whose must-be-zero bits are all the others. -/
theorem nopRow_of_opcode : ∀ r ∈ opcodeTable, r.pattern.extractLsb' 56 8 = 0#8 → r.mask = BitVec.allOnes 64 ∧ r.pattern = 0#64 := by
  decide

/-- Of the words of opcode 0 only the zero word selects a row. -/
theorem eq_zero_of_selects {r : OpcodeRow} {w : Cmd} (hr : r ∈ opcodeTable) (hw : w &&& r.mask = r.pattern)
    (hop : w.extractLsb' 56 8 = 0#8) : w = 0#64 := by
  obtain ⟨hmask, hpattern⟩ := nopRow_of_opcode r hr ((opcode_of_selects hr hw).trans hop)
  rwa [hmask, hpattern, BitVec.and_allOnes] at hw

theorem rowOf_eq_none {w : Cmd} (h : ∀ r ∈ opcodeTable, w &&& r.mask ≠ r.pattern) : rowOf w = none :=
  List.find?_eq_none.2 fun r hr hsel => h r hr (of_decide_eq_true hsel)

/-- A word of a known opcode that selects no row has a must-be-zero bit set (R121). -/
theorem decode_mustBeZero {w : Cmd} (hknown : opcodeKnown w = true) (h : ∀ r ∈ opcodeTable, w &&& r.mask ≠ r.pattern) :
    decode w = .error .mustBeZero := by
  rw [decode, rowOf_eq_none h]
  exact if_pos hknown

theorem decode_zero : decode 0#64 = .ok .nop := decode_encode .nop

theorem decode_of_opcode_zero {w : Cmd} (hop : w.extractLsb' 56 8 = 0#8) (hw : w ≠ 0#64) : decode w = .error .mustBeZero := by
  refine decode_mustBeZero ?known fun r hr hsel => hw (eq_zero_of_selects hr hsel hop)
  case known =>
    rw [opcodeKnown, fieldOpcode, hop]
    decide

/-! ### One filled queue (R15) -/

section OneQueue
variable {s : State} {w : Cmd} {rest : List Cmd}

theorem nextPort_p0_alone (h0 : s.cq0 = w :: rest) (h1 : s.cq1 = []) : nextPort s = some .p0 := by
  simp [nextPort, queuesContend, h0, h1]

theorem nextPort_p1_alone (h0 : s.cq0 = []) (h1 : s.cq1 = w :: rest) : nextPort s = some .p1 := by
  simp [nextPort, queuesContend, h0, h1]

theorem popCommand_p0_alone (h0 : s.cq0 = w :: rest) (h1 : s.cq1 = []) :
    popCommand .p0 s = { s with cq0 := rest, curPort := .p0, curCmd := w } := by
  simp [popCommand, queuesContend, h0, h1]

theorem popCommand_p1_alone (h0 : s.cq0 = []) (h1 : s.cq1 = w :: rest) :
    popCommand .p1 s = { s with cq1 := rest, curPort := .p1, curCmd := w } := by
  simp [popCommand, queuesContend, h0, h1]

end OneQueue

/-! ### The step -/

/-- A step whose queue's head is a `NOP` pops it and is over. -/
theorem step_nop {s : State} {port : Port} (hport : nextPort s = some port) (hcmd : (popCommand port s).curCmd = 0#64) :
    step s = .next (retire (popCommand port s)) := by
  rw [step, hport]
  show retireOutcome (runCommand (popCommand port s)) = _
  rw [runCommand, hcmd, decode_zero]
  rfl

/-- Settles O17: the decoder by the rows of opcode 0, the step on each port by `step_nop` and the pop of the one filled queue. -/
theorem nopChangesNothing : Obligations.NopChangesNothing := by
  refine ⟨decode_zero, fun _ => rfl, fun s rest h0 h1 => ?p0, fun s rest h0 h1 => ?p1, fun w hop hw => ?illegal⟩
  case p0 =>
    have hpop := popCommand_p0_alone h0 h1
    rw [step_nop (nextPort_p0_alone h0 h1) (by rw [hpop]), hpop]
    rfl
  case p1 =>
    have hpop := popCommand_p1_alone h0 h1
    rw [step_nop (nextPort_p1_alone h0 h1) (by rw [hpop]), hpop]
    rfl
  case illegal => exact decode_of_opcode_zero (BitVec.eq_of_toNat_eq hop) hw

end Sys2Proof.Machine
end

section
/-!
Writes of the parameter registers (spec/47_system.md R277). The register map takes each of the eight addresses to its register
(`ofAddr_param`), so the command is `WriteParam`; what it stores lies between the bounds of the range because the bounds are in order
(`legalise_mem`, `ParamReg.lo_le_hi`).
-/
namespace Sys2Proof.Machine

/-- The map of R40 at the addresses of the parameter registers, which exist whatever the open parameters. -/
theorem ofAddr_param (p : Params) (r : ParamReg) : Reg.ofAddr p r.addr = some (.param r) := by cases r <;> rfl

theorem exec_wrreg_param (r : ParamReg) (x : Word) (s : State) : exec (.wrreg r.addr x) s = writeParam r x s := by
  show execWrreg r.addr x s = _
  rw [execWrreg, ofAddr_param]
  rfl

theorem ParamReg.lo_le_hi (r : ParamReg) : fle r.lo r.hi = true := by cases r <;> decide

/-- A number saturated to a range whose bounds are in order lies in it. -/
theorem legalise_mem {v lo hi : F32} (hv : isNaN v = false) (hrange : fle lo hi = true) :
    fle lo (legalise v lo hi) = true ∧ fle (legalise v lo hi) hi = true := by
  obtain ⟨hlo, hhi, -⟩ := (fle_iff lo hi).1 hrange
  have hrefl {x : F32} (hx : isNaN x = false) : fle x x = true := (fle_iff x x).2 ⟨hx, hx, le_rfl⟩
  unfold legalise
  split_ifs with hbelow habove
  · exact ⟨hrefl hlo, hrange⟩
  · exact ⟨hrange, hrefl hhi⟩
  · exact ⟨fle_of_fle_eq_false hv hlo (Bool.eq_false_iff.2 hbelow), fle_of_fle_eq_false hhi hv (Bool.eq_false_iff.2 habove)⟩

/-- What a parameter write stores is legal (R41, R42). -/
theorem ParamReg.legal_legalise (r : ParamReg) {v : F32} (hv : isNaN v = false) : r.legal (legalise v r.lo r.hi) = true :=
  Bool.and_eq_true_iff.2 (legalise_mem hv r.lo_le_hi)

/-- Settles O28: past the register map a parameter write is `WriteParam`, and `legalise` is its saturation. -/
theorem parameterWriteSaturates : Obligations.ParameterWriteSaturates := by
  intro s r x
  rw [exec_wrreg_param]
  exact ⟨writeParam_nan r x s, fun hx => ⟨writeParam_number r x s hx, r.legal_legalise hx⟩⟩

end Sys2Proof.Machine
end

section
/-!
The fault entry (spec/60_exceptions.md R290 to R296). A fault sets one bit of `ERROR` (`errorEntry_getLsbD`), so `ERROR` is not zero after
it; the record of the first fault is `errorEntry_first`, that of a later one `errorEntry_later`. An illegal word is a pop, the fault entry
and nothing else (`step_illegal`).
-/
namespace Sys2Proof.Machine

/-! ### The bits of `ERROR` (R32, R296) -/

/-- The bit a fault sets is the one its code numbers. -/
theorem FaultCode.getLsbD_bit (code : FaultCode) (k : Nat) : (BitVec.ofNat 32 (2 ^ code.number)).getLsbD k = decide (code.number = k) := by
  have hcode : code.number < 32 := by have := code.number_range; omega
  rw [BitVec.getLsbD_ofNat, Nat.testBit_two_pow, Bool.and_eq_right_iff_imp]
  intro heq
  rw [decide_eq_true_iff] at heq ⊢
  rwa [← heq]

/-- Of the bits of `ERROR` a fault sets its own and leaves the others. -/
theorem errorEntry_getLsbD (code : FaultCode) (port : Port) (cmd : Cmd) (e : ErrorRegs) (k : Nat) :
    (errorEntry code port cmd e).error.getLsbD k = (e.error.getLsbD k || decide (code.number = k)) := by
  rw [errorEntry_error, BitVec.getLsbD_or, code.getLsbD_bit]

theorem errorEntry_error_ne_zero (code : FaultCode) (port : Port) (cmd : Cmd) (e : ErrorRegs) :
    (errorEntry code port cmd e).error ≠ 0#32 := by
  intro hzero
  have hbit := errorEntry_getLsbD code port cmd e code.number
  simp [hzero] at hbit

/-! ### The registers a fault writes, in the words of R296 -/

theorem FaultCode.bit_eq_shiftLeft (code : FaultCode) : BitVec.ofNat 32 (2 ^ code.number) = 1#32 <<< code.number := by
  cases code <;> rfl

/-- `ERRFIRST` holds the code in its low byte and the port above it. -/
theorem errfirst_eq_or (code : FaultCode) (port : Port) :
    BitVec.ofNat 32 (code.number + port.number * 256) = BitVec.ofNat 32 code.number ||| (BitVec.ofNat 32 port.number <<< 8) := by
  cases port <;> cases code <;> rfl

/-- `STATUS.FAULT` (R31). -/
theorem statusWord_fault (s : State) : (statusWord s).getLsbD 3 = decide (s.err.error ≠ 0#32) :=
  maskOf_getLsbD _ 3

/-! ### `RDREG` where it faults (R278, R279) -/

theorem exec_rdreg_unmapped {s : State} {a : Nat} (h : Reg.ofAddr s.params a = none) :
    exec (.rdreg a) s = .next (raiseFault .badReg (pushResponse s.curPort 0#32 s)) := by
  show execRdreg a s = _
  rw [execRdreg, h]
  rfl

theorem exec_rdreg_pmData (s : State) : exec (.rdreg 0x0021) s = pmDataRead s := rfl

theorem exec_wrreg_pmData (w : Word) (s : State) : exec (.wrreg 0x0021 w) s = pmDataWrite w s := rfl

theorem pmDataRead_outside {s : State} (h : s.params.padMemWords ≤ s.staging.pmAddr.toNat) :
    pmDataRead s = .next (raiseFault .pmRange (pushResponse s.curPort 0#32 s)) := by
  rcases pmDataRead_cases s with ⟨hin, -⟩ | ⟨-, hfault⟩
  · omega
  · exact hfault

theorem pmDataWrite_outside {s : State} (w : Word) (h : s.params.padMemWords ≤ s.staging.pmAddr.toNat) :
    pmDataWrite w s = .next (raiseFault .pmRange s) := by
  rcases pmDataWrite_cases w s with ⟨hin, -⟩ | ⟨-, hfault⟩
  · omega
  · exact hfault

/-- Settles O9: the entry by the first and the later fault, `STATUS.FAULT` by the bit just set, and the two faults of `RDREG`. -/
theorem faultEntryRecordsTheFault : Obligations.FaultEntryRecordsTheFault := by
  refine ⟨fun code s => ⟨rfl, ?error, fun hfirst => ?first, fun hlater => ?later, ?status⟩, fun s a => exec_rdreg_unmapped,
    fun s => pmDataRead_outside⟩
  case error => rw [raiseFault_err, errorEntry_error, code.bit_eq_shiftLeft]
  case first =>
    rw [raiseFault_err, errorEntry_first _ _ _ _ hfirst]
    exact ⟨errfirst_eq_or code s.curPort, rfl, rfl⟩
  case later =>
    rw [raiseFault_err, errorEntry_later _ _ _ _ hlater]
    exact ⟨rfl, rfl, rfl⟩
  case status =>
    rw [statusWord_fault, raiseFault_err]
    exact decide_eq_true (errorEntry_error_ne_zero code s.curPort s.curCmd s.err)

/-- Settles O15: `PM_ADDR` is a plain register, and the two sides of `PM_DATA` outside the memory. -/
theorem padMemoryRangeFaults : Obligations.PadMemoryRangeFaults := by
  refine ⟨fun s w => rfl, fun s h => ⟨fun v => ?write, ?read, by rw [raiseFault_staging, pushResponse_staging]⟩⟩
  case write => exact (exec_wrreg_pmData v s).trans (pmDataWrite_outside v h)
  case read => exact (exec_rdreg_pmData s).trans (pmDataRead_outside h)

/-! ### Illegal words (R300) -/

theorem runCommand_illegal {s : State} {e : DecodeError} (h : decode s.curCmd = .error e) :
    runCommand s = .next (raiseFault .illegalCmd s) := by
  rw [runCommand, h]
  rfl

/-- A step whose queue's head is an illegal word pops it and takes the fault. -/
theorem step_illegal {s : State} {port : Port} {e : DecodeError} (hport : nextPort s = some port)
    (hcmd : decode (popCommand port s).curCmd = .error e) :
    step s = .next (retire (raiseFault .illegalCmd (popCommand port s))) := by
  rw [step, hport]
  show retireOutcome (runCommand (popCommand port s)) = _
  rw [runCommand_illegal hcmd]
  rfl

/-- Settles O8: `runCommand_illegal` before any port check, the step on each port by the pop of the one filled queue. -/
theorem illegalWordOnlyRecordsTheFault : Obligations.IllegalWordOnlyRecordsTheFault := by
  refine ⟨fun s e => runCommand_illegal, fun s w rest e h0 h1 hw => ?p0, fun s w rest e h0 h1 hw => ?p1, by decide, ?mustBeZero⟩
  case mustBeZero =>
    simp only [List.forall_mem_cons]
    exact ⟨by decide, by decide, by decide, by decide, List.forall_mem_nil _⟩
  case p0 =>
    have hpop := popCommand_p0_alone h0 h1
    rw [step_illegal (nextPort_p0_alone h0 h1) (by rwa [hpop]), hpop]
    rfl
  case p1 =>
    have hpop := popCommand_p1_alone h0 h1
    rw [step_illegal (nextPort_p1_alone h0 h1) (by rwa [hpop]), hpop]
    rfl

end Sys2Proof.Machine
end

section
/-!
Port admission and the checks of a prepared engine (spec/60_exceptions.md R301, R302, R304). `OnlyP0` names the six commands that only P0
may issue. From P1 each is refused (`exec_p1_of_onlyP0`); where that check passes or is not made, no check of any command has the code
`PORT_VIOLATION`, so its bit of `ERROR` stays (`exec_keepsPortBit`).
-/
namespace Sys2Proof.Machine

/-! ### The commands that only P0 may issue (R126) -/

/-- The six commands of R301. -/
def OnlyP0 : Instr → Prop
  | .prepare _ _ | .release | .render _ | .noteOn _ _ _ | .noteOff _ _ _ | .noteCut _ _ _ => True
  | _ => False

theorem onlyP0_iff (i : Instr) :
    OnlyP0 i ↔ (∃ n r, i = .prepare n r) ∨ i = .release ∨ (∃ n, i = .render n) ∨ (∃ n c v, i = .noteOn n c v) ∨
      (∃ n c v, i = .noteOff n c v) ∨ (∃ n c v, i = .noteCut n c v) := by
  cases i <;> simp [OnlyP0]

theorem exec_p1_of_onlyP0 {i : Instr} {s : State} (hi : OnlyP0 i) (hp : s.curPort = .p1) :
    exec i s = .next (raiseFault .portViolation s) := by
  cases i with
  | prepare | release | render | noteOn | noteOff | noteCut => exact onP0_p1 s _ hp
  | nop | padTrig | padLoad | padClear | wrreg | rdreg => exact hi.elim

/-! ### Outcomes that leave bit 2 of `ERROR` alone -/

/-- A next state of the outcome has the `PORT_VIOLATION` bit of `s`. -/
def KeepsPortBit (s : State) (o : Host.Outcome State Fault Refusal) : Prop :=
  ∀ t, o = .next t → t.err.error.getLsbD 2 = s.err.error.getLsbD 2

namespace KeepsPortBit
variable {s : State} {run other : Host.Outcome State Fault Refusal}

theorem of_err_eq {t : State} (h : t.err = s.err) : KeepsPortBit s (.next t) := by
  rintro _ ⟨⟩
  rw [h]

theorem stop (f : Fault) : KeepsPortBit s (.fault f) := nofun

/-- A fault of another code, also of an `RDREG` that has pushed its zero word. -/
theorem fault {code : FaultCode} (hcode : code ≠ .portViolation) {u : State} (h : u.err = s.err) : KeepsPortBit s (takeFault code u) := by
  have hbit : code.number ≠ 2 := by
    cases code with
    | portViolation => exact absurd rfl hcode
    | _ => decide
  rintro _ ⟨⟩
  rw [raiseFault_err, errorEntry_getLsbD, h, decide_eq_false hbit, Bool.or_false]

theorem ite {c : Prop} [Decidable c] (hrun : KeepsPortBit s run) (hother : KeepsPortBit s other) :
    KeepsPortBit s (if c then run else other) := by
  split_ifs
  · exact hrun
  · exact hother

theorem whenPrepared (hrun : KeepsPortBit s run) : KeepsPortBit s (whenPrepared s run) := ite hrun (fault (by decide) rfl)

theorem onP0 (hp : s.curPort = .p0) (hrun : KeepsPortBit s run) : KeepsPortBit s (onP0 s run) := by
  rwa [onP0_p0 s run hp]

end KeepsPortBit

/-! ### What the commands do to it -/

theorem padTrigger_err (pad : Nat) (vel : F32) (s : State) : (padTrigger pad vel s).err = s.err := by
  rw [padTrigger_eq]
  split_ifs <;> rfl

section Commands
variable {s : State}

theorem writeReg_keepsPortBit (r : Reg) (w : Word) : KeepsPortBit s (writeReg r w s) := by
  cases r with
  | param => exact .ite (.fault (by decide) rfl) (.of_err_eq rfl)
  | pmData => exact .ite (.of_err_eq rfl) (.fault (by decide) rfl)
  | pmAddr | stgBase | stgFrames | stgChans | stgFileid => exact .of_err_eq rfl
  | _ => exact .fault (by decide) rfl

theorem execWrreg_keepsPortBit (a : Nat) (w : Word) : KeepsPortBit s (execWrreg a w s) := by
  unfold execWrreg
  split
  · exact .fault (by decide) rfl
  · exact writeReg_keepsPortBit _ w

theorem execRdreg_keepsPortBit (a : Nat) : KeepsPortBit s (execRdreg a s) := by
  unfold execRdreg
  split
  · exact .fault (by decide) rfl
  · exact .ite (.ite (.of_err_eq rfl) (.fault (by decide) rfl)) (.of_err_eq rfl)

/-- The checks of a command in the order of R293: past port admission none has the code `PORT_VIOLATION`. -/
theorem exec_keepsPortBit {i : Instr} (hport : OnlyP0 i → s.curPort = .p0) : KeepsPortBit s (exec i s) := by
  cases i with
  | nop => exact .of_err_eq rfl
  | prepare => exact .onP0 (hport trivial) (.ite (.of_err_eq rfl) (.fault (by decide) rfl))
  | release => exact .onP0 (hport trivial) (.of_err_eq rfl)
  | render => exact .onP0 (hport trivial) (.whenPrepared (.ite (.fault (by decide) rfl) (.ite (.of_err_eq rfl) (.stop _))))
  | noteOn =>
    exact .onP0 (hport trivial)
      (.whenPrepared (.ite (.fault (by decide) rfl) (.ite (.of_err_eq rfl) (.of_err_eq (padTrigger_err _ _ s)))))
  | noteOff | noteCut => exact .onP0 (hport trivial) (.whenPrepared (.ite (.of_err_eq rfl) (.of_err_eq rfl)))
  | padTrig => exact .ite (.fault (by decide) rfl) (.of_err_eq (padTrigger_err _ _ s))
  | padLoad | padClear => exact .ite (.of_err_eq rfl) (.of_err_eq rfl)
  | wrreg a w => exact execWrreg_keepsPortBit a w
  | rdreg a => exact execRdreg_keepsPortBit a

end Commands

/-- Settles O10: `exec_p1_of_onlyP0` for the six; a command that newly sets bit 2 fails `exec_keepsPortBit`'s premise, so it is one of the
six and came from P1. -/
theorem realTimeCommandsFaultOnP1 : Obligations.RealTimeCommandsFaultOnP1 := by
  refine ⟨fun s hp => ?refused, fun i s t hexec hclear hset => ?onlyThese⟩
  case refused =>
    have refused {i : Instr} (hi : OnlyP0 i) := exec_p1_of_onlyP0 hi hp
    exact ⟨fun _ _ => refused trivial, refused trivial, fun _ => refused trivial, fun _ _ _ => refused trivial,
      fun _ _ _ => refused trivial, fun _ _ _ => refused trivial⟩
  case onlyThese =>
    have not_admitted : ¬(OnlyP0 i → s.curPort = .p0) := by
      intro hport
      have kept := exec_keepsPortBit hport t hexec
      rw [hclear, hset] at kept
      cases kept
    obtain ⟨honly, hp⟩ := Classical.not_imp.1 not_admitted
    exact ⟨(Port.ne_p0 _).1 hp, (onlyP0_iff i).1 honly⟩

/-! ### The checks of the engine state and of the block size (R302, R304) -/

/-- A command of R302 that P0 issues to an unprepared engine is refused before its operands are looked at. -/
theorem onP0_whenPrepared_no {s : State} (run : Host.Outcome State Fault Refusal) (hp : s.curPort = .p0) (hq : s.prepared = false) :
    onP0 s (whenPrepared s run) = .next (raiseFault .notPrepared s) :=
  (onP0_p0 s _ hp).trans (whenPrepared_no s run hq)

/-- Settles O11: the four commands share their first two checks; `PAD_TRIG` has neither. -/
theorem unpreparedEngineFaults : Obligations.UnpreparedEngineFaults := by
  refine fun s hq => ⟨fun hp => ?refused, fun p v hv => ?padTrig⟩
  case refused =>
    exact ⟨fun _ => onP0_whenPrepared_no _ hp hq, fun _ _ _ => onP0_whenPrepared_no _ hp hq,
      fun _ _ _ => onP0_whenPrepared_no _ hp hq, fun _ _ _ => onP0_whenPrepared_no _ hp hq⟩
  case padTrig =>
    show execPadTrig p v s = _
    rw [execPadTrig, if_neg (by simp [hv])]

theorem execRender_too_large {s : State} {n : Nat} (hp : s.curPort = .p0) (hq : s.prepared = true) (hn : s.maxBlock.toNat < n) :
    execRender n s = .next (raiseFault .blockTooLarge s) := by
  rw [execRender, onP0_p0 _ _ hp, whenPrepared_yes _ _ hq, if_pos hn, takeFault_eq]

/-- What R21 says of a prepared engine puts `MAXBLOCK` at or below 4096. -/
theorem PreparedInv.maxBlock_le {s : State} (h : PreparedInv s) (hlegal : s.params.Legal) (hq : s.prepared = true) :
    s.maxBlock.toNat ≤ 4096 := by
  obtain ⟨-, -, -, hmax⟩ := h hq
  obtain ⟨-, -, ⟨-, hhw⟩, -⟩ := hlegal
  exact hmax.trans hhw

/-- Settles O13: the block size check, and `PreparedInv.maxBlock_le` for the counts of 4097 and more. -/
theorem oversizedBlockFaults : Obligations.OversizedBlockFaults := by
  refine fun s n hp hq => ⟨execRender_too_large hp hq, fun hlegal hprep hn => ?_⟩
  exact execRender_too_large hp hq ((hprep.maxBlock_le hlegal hq).trans_lt hn)

end Sys2Proof.Machine
end

section
/-!
The encoder and the decoder as inverses (spec/30_encoding.md R111 to R121). A command word is its five fields (`packFields_fields`), and two
words are equal when the fields are (`packFields_inj`). So reading the fields of an encoding gives the operands back when they fit
(`operandsOf_encode`), and a word that selects a row is the encoding of the operands of that row, since its other fields are the row's
(`encode_operandsOf`).
-/
namespace Sys2Proof.Machine

/-! ### The five fields of a word (R111) -/

/-- A command word as a number. -/
theorem packFields_toNat (o a b c : BitVec 8) (e : Word) :
    (packFields o a b c e).toNat = (((o.toNat * 256 + a.toNat) * 256 + b.toNat) * 256 + c.toNat) * 2 ^ 32 + e.toNat := by
  have ha := a.isLt
  have hb := b.isLt
  have hc := c.isLt
  have he := e.isLt
  simp only [packFields, BitVec.toNat_append]
  rw [← Nat.shiftLeft_add_eq_or_of_lt ha, ← Nat.shiftLeft_add_eq_or_of_lt hb, ← Nat.shiftLeft_add_eq_or_of_lt hc,
    ← Nat.shiftLeft_add_eq_or_of_lt he]
  simp only [Nat.shiftLeft_eq]

/-- A word is put together from its fields. -/
theorem packFields_fields (w : Cmd) :
    packFields (w.extractLsb' 56 8) (w.extractLsb' 48 8) (w.extractLsb' 40 8) (w.extractLsb' 32 8) (w.extractLsb' 0 32) = w := by
  apply BitVec.eq_of_toNat_eq
  have hw := w.isLt
  simp only [packFields_toNat, BitVec.extractLsb'_toNat, Nat.shiftRight_eq_div_pow]
  omega

/-- Equal words have equal fields. -/
theorem packFields_inj {o a b c o' a' b' c' : BitVec 8} {e e' : Word} (h : packFields o a b c e = packFields o' a' b' c' e') :
    o = o' ∧ a = a' ∧ b = b' ∧ c = c' ∧ e = e' := by
  have hnum := congrArg BitVec.toNat h
  have ha := a.isLt
  have hb := b.isLt
  have hc := c.isLt
  have he := e.isLt
  have ha' := a'.isLt
  have hb' := b'.isLt
  have hc' := c'.isLt
  have he' := e'.isLt
  rw [packFields_toNat, packFields_toNat] at hnum
  refine ⟨?_, ?_, ?_, ?_, ?_⟩ <;> apply BitVec.eq_of_toNat_eq <;> omega

/-! ### Reading the fields of an encoding (R118) -/

/-- What the operand fields of R118 read in a word of five given fields. -/
theorem fields_packFields (o a b c : BitVec 8) (e : Word) :
    fieldImm (packFields o a b c e) = e ∧ fieldPad (packFields o a b c e) = a.toNat ∧
    fieldNote (packFields o a b c e) = a.toNat % 128 ∧ fieldChan (packFields o a b c e) = b.toNat % 16 ∧
    fieldAddr (packFields o a b c e) = a.toNat * 256 + b.toNat ∧
    fieldMaxBlock (packFields o a b c e) = (a.toNat * 256 + b.toNat) * 256 + c.toNat := by
  have ha := a.isLt
  have hb := b.isLt
  have hc := c.isLt
  have he := e.isLt
  refine ⟨BitVec.eq_of_toNat_eq ?_, ?_, ?_, ?_, ?_, ?_⟩
  all_goals
    simp only [fieldImm, fieldPad, fieldNote, fieldChan, fieldAddr, fieldMaxBlock, BitVec.extractLsb'_toNat,
      Nat.shiftRight_eq_div_pow, packFields_toNat]
    omega

/-- The fields of format N (R115). -/
theorem fields_packNote (op : BitVec 8) (note chan : Nat) (vel : F32) :
    fieldNote (packNote op note chan vel) = note % 128 ∧ fieldChan (packNote op note chan vel) = chan % 16 ∧
    fieldImm (packNote op note chan vel) = vel := by
  obtain ⟨himm, -, hnote, hchan, -⟩ :=
    fields_packFields op (0#1 ++ BitVec.ofNat 7 note) (0#4 ++ BitVec.ofNat 4 chan) 0#8 vel
  have hnote8 : (0#1 ++ BitVec.ofNat 7 note).toNat = note % 128 := (BitVec.toNat_append _ _).trans (by simp)
  have hchan8 : (0#4 ++ BitVec.ofNat 4 chan).toNat = chan % 16 := (BitVec.toNat_append _ _).trans (by simp)
  rw [hnote8, Nat.mod_mod] at hnote
  rw [hchan8, Nat.mod_mod] at hchan
  exact ⟨hnote, hchan, himm⟩

/-- The fields of format R (R117). -/
theorem fields_packReg {op : BitVec 8} {addr : Nat} {imm : Word} (h : addr < 65536) :
    fieldAddr (packReg op addr imm) = addr ∧ fieldImm (packReg op addr imm) = imm := by
  obtain ⟨himm, -, -, -, haddr, -⟩ := fields_packFields op (BitVec.ofNat 8 (addr / 256)) (BitVec.ofNat 8 addr) 0#8 imm
  refine ⟨haddr.trans ?_, himm⟩
  simp only [BitVec.toNat_ofNat]
  omega

/-- A note command's operands that fit come back from its word, whichever of the three it is. -/
theorem note_operands {op : BitVec 8} {note chan : Nat} {vel : F32} (h : (noteFits note && chanFits chan) = true)
    (mk : Nat → Nat → F32 → Instr) :
    mk (fieldNote (packNote op note chan vel)) (fieldChan (packNote op note chan vel)) (fieldImm (packNote op note chan vel)) =
      mk note chan vel := by
  simp only [noteFits, chanFits, Bool.and_eq_true, decide_eq_true_eq] at h
  obtain ⟨hnote, hchan, himm⟩ := fields_packNote op note chan vel
  rw [hnote, hchan, himm, Nat.mod_eq_of_lt h.1, Nat.mod_eq_of_lt h.2]

theorem pad_of_packFields {o b c : BitVec 8} {e : Word} {pad : Nat} (h : padFits pad = true) :
    fieldPad (packFields o (BitVec.ofNat 8 pad) b c e) = pad := by
  obtain ⟨-, hpad, -⟩ := fields_packFields o (BitVec.ofNat 8 pad) b c e
  rw [hpad, BitVec.toNat_ofNat]
  exact Nat.mod_eq_of_lt (of_decide_eq_true h)

/-- The fields of a well-formed command's encoding are its operands. -/
theorem operandsOf_encode (i : Instr) (h : i.wellFormed = true) : operandsOf (Laws.EncodingRow.opcode i) (encode i) = i := by
  cases i with
  | nop | release => rfl
  | prepare maxBlock rate =>
    obtain ⟨himm, -, -, -, -, hblock⟩ := fields_packFields 0x01#8 (BitVec.ofNat 8 (maxBlock / 65536)) (BitVec.ofNat 8 (maxBlock / 256))
      (BitVec.ofNat 8 maxBlock) rate
    have hfits : maxBlock < 2 ^ 24 := of_decide_eq_true h
    refine congrArg₂ Instr.prepare (hblock.trans ?_) himm
    simp only [BitVec.toNat_ofNat]
    omega
  | render count =>
    obtain ⟨himm, -⟩ := fields_packFields 0x08#8 0#8 0#8 0#8 (BitVec.ofNat 32 count)
    refine congrArg Instr.render ((congrArg BitVec.toNat himm).trans ?_)
    rw [BitVec.toNat_ofNat]
    exact Nat.mod_eq_of_lt (of_decide_eq_true h)
  | noteOn note chan vel => exact note_operands h .noteOn
  | noteOff note chan vel => exact note_operands h .noteOff
  | noteCut note chan vel => exact note_operands h .noteCut
  | padTrig pad vel => exact congrArg₂ Instr.padTrig (pad_of_packFields h) (fields_packFields ..).1
  | padLoad pad => exact congrArg Instr.padLoad (pad_of_packFields h)
  | padClear pad => exact congrArg Instr.padClear (pad_of_packFields h)
  | wrreg addr data =>
    obtain ⟨haddr, himm⟩ := fields_packReg (op := 0x30#8) (imm := data) (of_decide_eq_true h)
    exact congrArg₂ Instr.wrreg haddr himm
  | rdreg addr =>
    obtain ⟨haddr, -⟩ := fields_packReg (op := 0x31#8) (imm := 0#32) (of_decide_eq_true h)
    exact congrArg Instr.rdreg haddr

/-- Settles O1: an encoding decodes to the operands its fields hold, and these are the command's. -/
theorem decodeOfEncodeIsTheCommand : Obligations.DecodeOfEncodeIsTheCommand := fun i h => by
  rw [decode_encode, operandsOf_encode i h]

/-! ### Encoding the fields of a word (R111, R121) -/

/-- What is read from a field fits the field. -/
theorem wellFormed_operandsOf (op : Opcode) (w : Cmd) : (operandsOf op w).wellFormed = true := by
  have hnote : noteFits (fieldNote w) = true := decide_eq_true (w.extractLsb' 48 7).isLt
  have hchan : chanFits (fieldChan w) = true := decide_eq_true (w.extractLsb' 40 4).isLt
  have hpad : padFits (fieldPad w) = true := decide_eq_true (w.extractLsb' 48 8).isLt
  have haddr : addrFits (fieldAddr w) = true := decide_eq_true (w.extractLsb' 40 16).isLt
  have hnc : (noteFits (fieldNote w) && chanFits (fieldChan w)) = true := by rw [hnote, hchan]; rfl
  cases op with
  | nop | release => rfl
  | prepare => exact decide_eq_true (w.extractLsb' 32 24).isLt
  | render => exact decide_eq_true (fieldImm w).isLt
  | noteOn | noteOff | noteCut => exact hnc
  | padTrig | padLoad | padClear => exact hpad
  | wrreg | rdreg => exact haddr

/-- A row's test, field by field: the word is given fields with the mask's, and the fields are the pattern's. -/
theorem fields_of_selects {w : Cmd} {mo ma mb mc po pa pb pc : BitVec 8} {me pe : Word}
    (h : w &&& packFields mo ma mb mc me = packFields po pa pb pc pe) :
    ∃ o a b c e, w = packFields o a b c e ∧ o &&& mo = po ∧ a &&& ma = pa ∧ b &&& mb = pb ∧ c &&& mc = pc ∧ e &&& me = pe := by
  refine ⟨_, _, _, _, _, (packFields_fields w).symm, ?_⟩
  rw [← packFields_fields w, Laws.packFields_and] at h
  exact packFields_inj h

theorem and_all8 (x : BitVec 8) : x &&& 0xFF#8 = x := BitVec.and_allOnes

theorem and_all32 (x : Word) : x &&& 0xFFFFFFFF#32 = x := BitVec.and_allOnes

/-- A field whose upper bits are 0 is told by the lower ones. -/
theorem noteField_of_and : ∀ a : BitVec 8, a &&& 0x80#8 = 0#8 → 0#1 ++ BitVec.ofNat 7 (a.toNat % 128) = a := by decide

theorem chanField_of_and : ∀ b : BitVec 8, b &&& 0xF0#8 = 0#8 → 0#4 ++ BitVec.ofNat 4 (b.toNat % 16) = b := by decide

/-- A word of format N is that of its note, channel and velocity. -/
theorem packNote_fields {op : BitVec 8} {w : Cmd}
    (h : w &&& packFields 0xFF#8 0x80#8 0xF0#8 0xFF#8 0#32 = packFields op 0#8 0#8 0#8 0#32) :
    packNote op (fieldNote w) (fieldChan w) (fieldImm w) = w := by
  obtain ⟨o, a, b, c, e, rfl, ho, ha, hb, hc, -⟩ := fields_of_selects h
  obtain ⟨himm, -, hnote, hchan, -⟩ := fields_packFields o a b c e
  rw [and_all8] at ho hc
  rw [packNote, hnote, hchan, himm, noteField_of_and a ha, chanField_of_and b hb, ho, hc]

/-- A word with a pad index in field `a`, and in the low half what the row's mask leaves open. -/
theorem packPad_fields {op : BitVec 8} {w : Cmd} {me pe : Word}
    (h : w &&& packFields 0xFF#8 0#8 0xFF#8 0xFF#8 me = packFields op 0#8 0#8 0#8 pe) :
    packFields op (BitVec.ofNat 8 (fieldPad w)) 0#8 0#8 (fieldImm w) = w ∧ fieldImm w &&& me = pe := by
  obtain ⟨o, a, b, c, e, rfl, ho, -, hb, hc, he⟩ := fields_of_selects h
  obtain ⟨himm, hpad, -⟩ := fields_packFields o a b c e
  rw [and_all8] at ho hb hc
  rw [hpad, himm, BitVec.ofNat_toNat, BitVec.setWidth_eq, ho, hb, hc]
  exact ⟨rfl, he⟩

/-- A word of format R, and in its low half what the row's mask leaves open. -/
theorem packReg_fields {op : BitVec 8} {w : Cmd} {me pe : Word}
    (h : w &&& packFields 0xFF#8 0#8 0#8 0xFF#8 me = packFields op 0#8 0#8 0#8 pe) :
    packReg op (fieldAddr w) (fieldImm w) = w ∧ fieldImm w &&& me = pe := by
  obtain ⟨o, a, b, c, e, rfl, ho, -, -, hc, he⟩ := fields_of_selects h
  obtain ⟨himm, -, -, -, haddr, -⟩ := fields_packFields o a b c e
  have ha : BitVec.ofNat 8 ((a.toNat * 256 + b.toNat) / 256) = a := BitVec.eq_of_toNat_eq (by simp; omega)
  have hb : BitVec.ofNat 8 (a.toNat * 256 + b.toNat) = b := BitVec.eq_of_toNat_eq (by simp; omega)
  rw [and_all8] at ho hc
  rw [packReg, haddr, himm, ha, hb, ho, hc]
  exact ⟨rfl, he⟩

/-- A word of format S. -/
theorem packPrepare_fields {w : Cmd}
    (h : w &&& packFields 0xFF#8 0#8 0#8 0#8 0#32 = packFields 0x01#8 0#8 0#8 0#8 0#32) :
    encode (.prepare (fieldMaxBlock w) (fieldImm w)) = w := by
  obtain ⟨o, a, b, c, e, rfl, ho, -⟩ := fields_of_selects h
  obtain ⟨himm, -, -, -, -, hblock⟩ := fields_packFields o a b c e
  have ha : BitVec.ofNat 8 (((a.toNat * 256 + b.toNat) * 256 + c.toNat) / 65536) = a := BitVec.eq_of_toNat_eq (by simp; omega)
  have hb : BitVec.ofNat 8 (((a.toNat * 256 + b.toNat) * 256 + c.toNat) / 256) = b := BitVec.eq_of_toNat_eq (by simp; omega)
  have hc : BitVec.ofNat 8 ((a.toNat * 256 + b.toNat) * 256 + c.toNat) = c := BitVec.eq_of_toNat_eq (by simp; omega)
  rw [and_all8] at ho
  rw [encode, hblock, himm, ha, hb, hc, ho]

/-- A word of format B. -/
theorem packRender_fields {w : Cmd}
    (h : w &&& packFields 0xFF#8 0xFF#8 0xFF#8 0xFF#8 0#32 = packFields 0x08#8 0#8 0#8 0#8 0#32) :
    encode (.render (fieldImm w).toNat) = w := by
  obtain ⟨o, a, b, c, e, rfl, ho, ha, hb, hc, -⟩ := fields_of_selects h
  obtain ⟨himm, -⟩ := fields_packFields o a b c e
  rw [and_all8] at ho ha hb hc
  rw [encode, himm, BitVec.ofNat_toNat, BitVec.setWidth_eq, ho, ha, hb, hc]

/-- A word that selects a row is the encoding of its operands: the row's mask leaves nothing else open. -/
theorem encode_operandsOf : ∀ r ∈ opcodeTable, ∀ w : Cmd, w &&& r.mask = r.pattern → encode (operandsOf r.op w) = w := by
  simp only [opcodeTable, List.forall_mem_cons]
  refine ⟨fun w h => ?nop, fun w h => packPrepare_fields h, fun w h => ?release, fun w h => packRender_fields h,
    fun w h => packNote_fields h, fun w h => packNote_fields h, fun w h => packNote_fields h, 
    fun w h => (packPad_fields (op := 0x20#8) (me := 0#32) (pe := 0#32) h).1,
    fun w h => ?padLoad, fun w h => ?padClear, fun w h => (packReg_fields (op := 0x30#8) (me := 0#32) (pe := 0#32) h).1,
    fun w h => ?rdreg, List.forall_mem_nil _⟩
  case nop => exact (h.symm.trans BitVec.and_allOnes :)
  case release => exact (h.symm.trans BitVec.and_allOnes :)
  case padLoad =>
    obtain ⟨hword, himm⟩ := packPad_fields (op := 0x21#8) (me := 0xFFFFFFFF#32) (pe := 0#32) h
    rw [and_all32] at himm
    rwa [himm] at hword
  case padClear =>
    obtain ⟨hword, himm⟩ := packPad_fields (op := 0x22#8) (me := 0xFFFFFFFF#32) (pe := 0#32) h
    rw [and_all32] at himm
    rwa [himm] at hword
  case rdreg =>
    obtain ⟨hword, himm⟩ := packReg_fields (op := 0x31#8) (me := 0xFFFFFFFF#32) (pe := 0#32) h
    rw [and_all32] at himm
    rwa [himm] at hword

/-- A word that decodes selects a row, and its command is the operands of that row. -/
theorem row_of_decode {w : Cmd} {i : Instr} (h : decode w = .ok i) :
    ∃ r ∈ opcodeTable, w &&& r.mask = r.pattern ∧ i = operandsOf r.op w := by
  rw [decode] at h
  cases hrow : rowOf w with
  | none =>
    simp only [hrow] at h
    split at h <;> cases h
  | some r =>
    simp only [hrow, Except.ok.injEq] at h
    have hsel : w &&& r.mask = r.pattern := of_decide_eq_true (List.find?_some (p := (OpcodeRow.selects · w)) hrow)
    exact ⟨r, List.mem_of_find?_eq_some hrow, hsel, h.symm⟩

/-- Settles O2: the word selects a row, and its command is the operands of that row. -/
theorem decodedWordIsItsOwnEncoding : Obligations.DecodedWordIsItsOwnEncoding := by
  intro w i h
  obtain ⟨r, hr, hsel, rfl⟩ := row_of_decode h
  exact ⟨wellFormed_operandsOf r.op w, encode_operandsOf r hr w hsel⟩

/-! ### Illegal words (R121) -/

/-- The opcodes of R119. -/
def knownOpcodes : List Nat := [0x00, 0x01, 0x02, 0x08, 0x10, 0x11, 0x12, 0x20, 0x21, 0x22, 0x30, 0x31]

/-- The opcodes the decoder knows are those of R119. -/
theorem opcodeKnown_iff (w : Cmd) : opcodeKnown w = true ↔ (w.extractLsb' 56 8).toNat ∈ knownOpcodes := by
  have htable : opcodeTable.map (fun r => (r.pattern.extractLsb' 56 8).toNat) = knownOpcodes := by decide
  rw [← htable, opcodeKnown, List.any_eq_true, List.mem_map]
  simp only [decide_eq_true_eq]
  rfl

/-- A word that selects a row has a known opcode. -/
theorem opcodeKnown_of_selects {r : OpcodeRow} {w : Cmd} (hr : r ∈ opcodeTable) (hw : w &&& r.mask = r.pattern) :
    opcodeKnown w = true :=
  List.any_eq_true.2 ⟨r, hr, decide_eq_true (congrArg BitVec.toNat (opcode_of_selects hr hw))⟩

/-- What the decoder answers of a word that selects no row. -/
theorem decode_of_unmatched {w : Cmd} (h : ¬∃ r ∈ opcodeTable, w &&& r.mask = r.pattern) :
    decode w = if opcodeKnown w then .error .mustBeZero else .error .unknownOpcode := by
  rw [decode, rowOf_eq_none fun r hr hsel => h ⟨r, hr, hsel⟩]

/-- A word selects a row and decodes, or selects none and is illegal in the way its opcode says. -/
theorem decode_cases (w : Cmd) :
    (∃ r ∈ opcodeTable, w &&& r.mask = r.pattern ∧ decode w = .ok (operandsOf r.op w) ∧ opcodeKnown w = true) ∨
    ((∀ r ∈ opcodeTable, w &&& r.mask ≠ r.pattern) ∧
      decode w = if opcodeKnown w then .error .mustBeZero else .error .unknownOpcode) := by
  by_cases h : ∃ r ∈ opcodeTable, w &&& r.mask = r.pattern
  · obtain ⟨r, hr, hsel⟩ := h
    exact .inl ⟨r, hr, hsel, decode_of_selects hr hsel, opcodeKnown_of_selects hr hsel⟩
  · exact .inr ⟨fun r hr hsel => h ⟨r, hr, hsel⟩, decode_of_unmatched h⟩

/-- Settles O4: the rows are disjoint by `opcodeTable_disjoint`, and `decode_cases` says what the decoder answers. -/
theorem illegalWordsAreTheUnmatchedOnes : Obligations.IllegalWordsAreTheUnmatchedOnes := by
  refine ⟨fun r₁ h₁ r₂ h₂ w => opcodeTable_disjoint h₁ h₂, fun w => ⟨fun ⟨i, h⟩ => ?row, fun ⟨r, hr, hsel⟩ => ?decodes⟩,
    fun w => (?unknown : decode w = _ ↔ ¬_).trans (opcodeKnown_iff w).not, fun w => ?mustBeZero⟩
  case row =>
    obtain ⟨r, hr, hsel, -⟩ := row_of_decode h
    exact ⟨r, hr, hsel⟩
  case decodes => exact ⟨_, decode_of_selects hr hsel⟩
  case unknown =>
    rcases decode_cases w with ⟨r, hr, hsel, hdec, hknown⟩ | ⟨-, hdec⟩ <;> rw [hdec]
    · simp [hknown]
    · split_ifs with hknown <;> simp [hknown]
  case mustBeZero =>
    refine Iff.trans (?_ : _ ↔ opcodeKnown w = true ∧ _) (and_congr_left' (opcodeKnown_iff w))
    rcases decode_cases w with ⟨r, hr, hsel, hdec, -⟩ | ⟨hnone, hdec⟩ <;> rw [hdec]
    · exact ⟨fun h => by simp at h, fun h => absurd hsel (h.2 r hr)⟩
    · split_ifs with hknown
      · exact ⟨fun _ => ⟨hknown, hnone⟩, fun _ => rfl⟩
      · exact ⟨fun h => by simp at h, fun h => absurd h.1 hknown⟩

end Sys2Proof.Machine
end

section
/-!
The register map (spec/10_state.md R40) and the two register commands (spec/47_system.md R276 to R279). A mapped address is the address of
its register (`addr_of_ofAddr`), and every entry of a window is mapped to its register (`ofAddr_flt` and the like). Past the map a read
pushes `regValue` (`exec_rdreg_mapped`), so each row of R40 is read by naming the register that its address maps to.
-/
namespace Sys2Proof.Machine

/-! ### The map is the table of R40 -/

theorem regLow_addr : ∀ a < 0x30, ∀ r ∈ regLow a, r.addr = a := by decide

/-- A mapped address is the address of the register it names. -/
theorem addr_of_ofAddr {p : Params} {a : Nat} {r : Reg} (h : Reg.ofAddr p a = some r) : r.addr = a := by
  unfold Reg.ofAddr at h
  split_ifs at h with hlow
  · exact regLow_addr a hlow r h
  · obtain rfl := Option.some.inj h
    simp only [Reg.addr]
    omega
  all_goals
    rw [regWindow_eq_some h]
    simp only [Reg.addr]
    omega

theorem ofAddr_low {p : Params} {a : Nat} (h : a < 0x30) : Reg.ofAddr p a = regLow a := if_pos h

theorem ofAddr_chain (p : Params) {j : Nat} (hj : j < 16) : Reg.ofAddr p (0x0030 + j) = some (.chain j) := by
  rw [Reg.ofAddr, if_neg (by omega), if_pos (by omega), Nat.add_sub_cancel_left]

theorem ofAddr_pad (p : Params) {q j : Nat} (hq : q < 8) (hj : j < 5) : Reg.ofAddr p (0x0100 + 8 * q + j) = some (.pad q j) := by
  rw [Reg.ofAddr, if_neg (by omega), if_neg (by omega), if_neg (by omega), if_pos (by omega), Nat.add_assoc, Nat.add_sub_cancel_left]
  exact regWindow_entry 8 8 5 q j .pad hq hj (by decide)

theorem ofAddr_voice (p : Params) {k j : Nat} (hk : k < 8) (hj : j < 14) : Reg.ofAddr p (0x0200 + 16 * k + j) = some (.voice k j) := by
  rw [Reg.ofAddr, if_neg (by omega), if_neg (by omega), if_neg (by omega), if_neg (by omega), if_pos (by omega), Nat.add_assoc,
    Nat.add_sub_cancel_left]
  exact regWindow_entry 16 8 14 k j .voice hk hj (by decide)

section LegalParams
variable {p : Params} (hp : p.Legal)
include hp

theorem ofAddr_flt {c j : Nat} (hc : c < p.nch) (hj : j < 4) : Reg.ofAddr p (0x0040 + 4 * c + j) = some (.flt c j) := by
  obtain ⟨hnch, -⟩ := hp
  rw [Reg.ofAddr, if_neg (by omega), if_neg (by omega), if_pos (by omega), Nat.add_assoc, Nat.add_sub_cancel_left]
  exact regWindow_entry 4 p.nch 4 c j .flt hc hj le_rfl

theorem ofAddr_padVoice {m j : Nat} (hm : m < p.pv) (hj : j < 3) : Reg.ofAddr p (0x0300 + 4 * m + j) = some (.padVoice m j) := by
  obtain ⟨-, ⟨-, hpv⟩, -⟩ := hp
  rw [Reg.ofAddr, if_neg (by omega), if_neg (by omega), if_neg (by omega), if_neg (by omega), if_neg (by omega), if_pos (by omega),
    Nat.add_assoc, Nat.add_sub_cancel_left]
  exact regWindow_entry 4 p.pv 3 m j .padVoice hm hj (by decide)

theorem ofAddr_out {c i : Nat} (hc : c < p.nch) (hi : i < p.hwMaxBlock) :
    Reg.ofAddr p (0x8000 + 0x1000 * c + i) = some (.out c i) := by
  obtain ⟨-, -, ⟨-, hblock⟩, -⟩ := hp
  rw [Reg.ofAddr, if_neg (by omega), if_neg (by omega), if_neg (by omega), if_neg (by omega), if_neg (by omega), if_neg (by omega),
    Nat.add_assoc, Nat.add_sub_cancel_left]
  exact regWindow_entry 0x1000 p.nch p.hwMaxBlock c i .out hc hi hblock

end LegalParams

/-- A mapped word of a window that starts at `base` is a word of one of its entries. -/
theorem entry_of_regWindow_isSome {a base stride n used : Nat} {mk : Nat → Nat → Reg} (hbase : base ≤ a)
    (h : (regWindow (a - base) stride n used mk).isSome = true) : ∃ e j, e < n ∧ j < used ∧ a = base + stride * e + j := by
  unfold regWindow at h
  split_ifs at h with hin
  · have := Nat.div_add_mod (a - base) stride
    exact ⟨_, _, hin.1, hin.2, by omega⟩
  · cases h

theorem regLow_isSome_iff : ∀ a < 0x30, ((regLow a).isSome = true ↔
    a ≤ 0x000C ∨ (0x0010 ≤ a ∧ a ≤ 0x0013) ∨ (0x0018 ≤ a ∧ a ≤ 0x001B) ∨ a = 0x0020 ∨ a = 0x0021 ∨ (0x0024 ≤ a ∧ a ≤ 0x0027)) := by
  decide

/-- The ranges of the map, one after the other. -/
theorem ofAddr_isSome_iff {p : Params} (hp : p.Legal) (a : Nat) :
    (Reg.ofAddr p a).isSome = true ↔
      (a < 0x30 ∧ (regLow a).isSome = true) ∨ (∃ j, j < 16 ∧ a = 0x0030 + j) ∨
      (∃ c j, c < p.nch ∧ j < 4 ∧ a = 0x0040 + 4 * c + j) ∨ (∃ q j, q < 8 ∧ j < 5 ∧ a = 0x0100 + 8 * q + j) ∨
      (∃ k j, k < 8 ∧ j < 14 ∧ a = 0x0200 + 16 * k + j) ∨ (∃ m j, m < p.pv ∧ j < 3 ∧ a = 0x0300 + 4 * m + j) ∨
      (∃ c i, c < p.nch ∧ i < p.hwMaxBlock ∧ a = 0x8000 + 0x1000 * c + i) := by
  constructor
  · intro h
    unfold Reg.ofAddr at h
    split_ifs at h with hlow
    · exact .inl ⟨hlow, h⟩
    · exact .inr (.inl ⟨a - 0x30, by omega, by omega⟩)
    · exact .inr (.inr (.inl (entry_of_regWindow_isSome (by omega) h)))
    · exact .inr (.inr (.inr (.inl (entry_of_regWindow_isSome (by omega) h))))
    · exact .inr (.inr (.inr (.inr (.inl (entry_of_regWindow_isSome (by omega) h)))))
    · exact .inr (.inr (.inr (.inr (.inr (.inl (entry_of_regWindow_isSome (by omega) h))))))
    · exact .inr (.inr (.inr (.inr (.inr (.inr (entry_of_regWindow_isSome (by omega) h))))))
  · rintro (⟨hlow, h⟩ | ⟨j, hj, rfl⟩ | ⟨c, j, hc, hj, rfl⟩ | ⟨q, j, hq, hj, rfl⟩ | ⟨k, j, hk, hj, rfl⟩ | ⟨m, j, hm, hj, rfl⟩ |
      ⟨c, i, hc, hi, rfl⟩)
    · rwa [ofAddr_low hlow]
    · rw [ofAddr_chain p hj]; rfl
    · rw [ofAddr_flt hp hc hj]; rfl
    · rw [ofAddr_pad p hq hj]; rfl
    · rw [ofAddr_voice p hk hj]; rfl
    · rw [ofAddr_padVoice hp hm hj]; rfl
    · rw [ofAddr_out hp hc hi]; rfl

/-- The registers below `0x30`, with the bound that the table's rows imply. -/
theorem low_isSome_iff (a : Nat) : (a < 0x30 ∧ (regLow a).isSome = true) ↔
    a ≤ 0x000C ∨ (0x0010 ≤ a ∧ a ≤ 0x0013) ∨ (0x0018 ≤ a ∧ a ≤ 0x001B) ∨ a = 0x0020 ∨ a = 0x0021 ∨ (0x0024 ≤ a ∧ a ≤ 0x0027) := by
  refine ⟨fun ⟨hlow, h⟩ => (regLow_isSome_iff a hlow).1 h, fun h => ?_⟩
  have hlow : a < 0x30 := by omega
  exact ⟨hlow, (regLow_isSome_iff a hlow).2 h⟩

/-- Settles O32: `addr_of_ofAddr`, and the ranges of `ofAddr_isSome_iff` with their bounds written as the table writes them. -/
theorem registerMapIsTheTable : Obligations.RegisterMapIsTheTable := by
  refine ⟨fun p a r => addr_of_ofAddr, fun p a hp _ => ?_⟩
  have hchain : (∃ j, j < 16 ∧ a = 0x0030 + j) ↔ 0x0030 ≤ a ∧ a ≤ 0x003F :=
    ⟨fun ⟨j, hj, ha⟩ => by omega, fun h => ⟨a - 0x30, by omega, by omega⟩⟩
  simp only [ofAddr_isSome_iff hp, low_isSome_iff, hchain, or_assoc, ← Nat.lt_succ_iff, Nat.succ_eq_add_one, Nat.reduceAdd]

/-! ### `WRREG` (R276, R279, R305) -/

/-- A read-only register refuses the write whatever the data (R293). -/
theorem writeReg_readOnly {r : Reg} (h : r.writable = false) (v : Word) (s : State) : writeReg r v s = .next (raiseFault .badReg s) := by
  cases r with
  | param | pmAddr | pmData | stgBase | stgFrames | stgChans | stgFileid => cases h
  | _ => rfl

/-- Settles O14: an unmapped address is refused before the register is looked at, a read-only register before the data. -/
theorem unmappedAndReadOnlyFault : Obligations.UnmappedAndReadOnlyFault := by
  refine ⟨fun s a v hmap => ?unmapped, fun s a r v hmap hro => ?readOnly, fun s a => exec_rdreg_unmapped⟩
  case unmapped =>
    show execWrreg a v s = _
    rw [execWrreg, hmap]
    rfl
  case readOnly =>
    show execWrreg a v s = _
    rw [execWrreg, hmap]
    exact writeReg_readOnly hro v s

/-- Settles O29: the five addresses map to the plain registers, whose write is the field's update. -/
theorem stagingWriteStoresTheWord : Obligations.StagingWriteStoresTheWord := fun _ _ => ⟨rfl, rfl, rfl, rfl, rfl⟩

theorem pmDataWrite_inside {s : State} (w : Word) (h : s.staging.pmAddr.toNat < s.params.padMemWords) :
    pmDataWrite w s = .next (advancePmAddr (pmWrite s.staging.pmAddr.toNat w s)) := by
  rcases pmDataWrite_cases w s with ⟨-, hwrite⟩ | ⟨hout, -⟩
  · exact hwrite
  · omega

/-- What pad sample memory reads as after a `PM_DATA` write: `PM_ADDR` has no part in it. -/
theorem pmRead_advancePmAddr (s : State) (a : Nat) : pmRead (advancePmAddr s) a = pmRead s a := pmRead_congr _ _ a rfl rfl

/-- Settles O30: the write side of `PM_DATA` inside the memory, read back by the laws of `pmWrite`. -/
theorem padMemoryWriteStoresOneWord : Obligations.PadMemoryWriteStoresOneWord := by
  refine fun s w h => ⟨_, (exec_wrreg_pmData w s).trans (pmDataWrite_inside w h), ?same, fun a ha => ?other, rfl⟩
  case same => rw [pmRead_advancePmAddr, pmRead_pmWrite_same]
  case other => rw [pmRead_advancePmAddr, pmRead_pmWrite_ne _ _ _ _ ha]

/-! ### `RDREG` (R278, R279) -/

/-- A read of a mapped register other than `PM_DATA` pushes its value and changes nothing else. -/
theorem exec_rdreg_mapped {s : State} {a : Nat} {r : Reg} (hmap : Reg.ofAddr s.params a = some r) (hdata : r ≠ .pmData) :
    exec (.rdreg a) s = .next (pushResponse s.curPort (regValue s r) s) := by
  show execRdreg a s = _
  rw [execRdreg, hmap]
  exact if_neg hdata

theorem pmDataRead_inside {s : State} (h : s.staging.pmAddr.toNat < s.params.padMemWords) :
    pmDataRead s = .next (advancePmAddr (pushResponse s.curPort (pmRead s s.staging.pmAddr.toNat) s)) := by
  rcases pmDataRead_cases s with ⟨-, hread⟩ | ⟨hout, -⟩
  · exact hread
  · omega

/-- The registers at fixed addresses below `0x30` whose word is a field as it is: all but the masks and `PM_DATA`. -/
def fieldRegs : List Reg :=
  [.id, .error, .errfirst, .errinfoLo, .errinfoHi, .synthNext, .padNext, .fs, .maxBlock, .outCount, .param .masterVolume,
    .param .lowpassCutoff, .param .atmosphere, .param .synthLevel, .param .envAttack, .param .envDecay, .param .envSustain,
    .param .envRelease, .pmAddr, .stgBase, .stgFrames, .stgChans, .stgFileid]

theorem fieldRegs_mapped : ∀ r ∈ fieldRegs, r.addr < 0x30 ∧ regLow r.addr = some r ∧ r ≠ .pmData := by decide

/-- The words of a window's entry, one by one: what holds of each index holds along the list of the rows. -/
theorem forall_rows {n : Nat} {rows : List (Nat × Word)} {word : Nat → Word} {P : Nat → Word → Prop}
    (hrows : rows = (List.range n).map (fun j => (j, word j))) (h : ∀ j < n, P j (word j)) : ∀ x ∈ rows, P x.1 x.2 := by
  subst hrows
  exact List.forall_mem_map.2 fun j hj => h j (List.mem_range.1 hj)

/-- The fourteen words of the voice view (R44). -/
theorem voice_rows (v : Voice) :
    [(0, v.phase), (1, v.freq), (2, v.velgain), (3, v.note.setWidth 32), (4, if v.active = true then 1#32 else 0#32),
      (5, match v.env.stage with
        | .idle => 0#32
        | .attack => 1#32
        | .decay => 2#32
        | .sustain => 3#32
        | .release => 4#32),
      (6, v.env.level), (7, v.env.attack), (8, v.env.decay), (9, v.env.sustain), (10, v.env.release), (11, v.env.arate),
      (12, v.env.drate), (13, v.env.rrate)] = (List.range 14).map (fun j => (j, voiceWord v j)) := by
  obtain ⟨phase, freq, velgain, note, active, stage, level, attack, decay, sustain, release, arate, drate, rrate⟩ := v
  cases active <;> cases stage <;> rfl

/-- The five words of a pad slot (R33). -/
theorem pad_rows (d : PadSlot) :
    [(0, if d.loaded = true then 1#32 else 0#32), (1, d.base), (2, d.frames), (3, d.chans), (4, d.fileid)] =
      (List.range 5).map (fun j => (j, padWord d j)) := by
  obtain ⟨loaded, base, frames, chans, fileid⟩ := d
  cases loaded <;> rfl

/-- The bits of `STATUS` (R31). -/
theorem statusWord_getLsbD (s : State) :
    (statusWord s).getLsbD 0 = s.prepared ∧ (statusWord s).getLsbD 1 = s.loadOk0 ∧ (statusWord s).getLsbD 2 = s.loadOk1 ∧
    (statusWord s).getLsbD 3 = decide (s.err.error ≠ 0#32) ∧ ∀ b, 4 ≤ b → (statusWord s).getLsbD b = false := by
  refine ⟨maskOf_getLsbD _ 0, maskOf_getLsbD _ 1, maskOf_getLsbD _ 2, statusWord_fault s, fun b hb => ?_⟩
  rw [statusWord, maskOf_getLsbD, List.getD_eq_default _ _ hb, Bool.and_false]

/-- A mask of at most 32 flags, with its flags read off the records they are computed from. -/
theorem maskOf_map_getLsbD {α : Type} (xs : List α) (flag : α → Bool) (x₀ : α) (h : xs.length ≤ 32) (k : Nat) :
    (BitVec.ofNat 32 (maskOf (xs.map flag))).getLsbD k = (decide (k < xs.length) && flag (xs.getD k x₀)) := by
  rw [maskOf_getLsbD]
  rcases Nat.lt_or_ge k xs.length with hk | hk
  · have hmap : k < (xs.map flag).length := by rwa [List.length_map]
    rw [List.getD_eq_getElem _ _ hmap, List.getElem_map, List.getD_eq_getElem _ _ hk, decide_eq_true hk, decide_eq_true (by omega)]
  · have hmap : (xs.map flag).length ≤ k := by rwa [List.length_map]
    rw [List.getD_eq_default _ _ hmap, decide_eq_false (Nat.not_lt.2 hk), Bool.and_false, Bool.false_and]

/-- Settles O31: each address by the register it maps to; the masks by their flags, the windows entry by entry. -/
theorem registerReadPushesTheValue : Obligations.RegisterReadPushesTheValue := by
  intro s pushed reads bit
  have mapped {a : Nat} {r : Reg} (hmap : Reg.ofAddr s.params a = some r) (hdata : r ≠ .pmData) : reads a (regValue s r) :=
    exec_rdreg_mapped hmap hdata
  refine ⟨⟨statusWord s, mapped (r := .status) rfl nofun, statusWord_getLsbD s⟩,
    ⟨synthActiveWord s, mapped (r := .synthActive) rfl nofun, fun hlen k => ?synthActive⟩,
    ⟨padActiveWord s, mapped (r := .padActive) rfl nofun, fun hlegal hlen m => ?padActive⟩, ?fields, ?chain,
    fun hlegal c hc => ?flt, fun p hp => ?pad, fun k hk => ?voice, fun hlegal m hm => ?padVoice, fun hlegal c hc i hi => ?out,
    pmDataRead_inside⟩
  case synthActive =>
    rw [synthActiveWord, maskOf_map_getLsbD s.voices _ Voice.zero (by omega), hlen]
    rfl
  case padActive =>
    obtain ⟨-, ⟨-, hpv⟩, -⟩ := hlegal
    rw [padActiveWord, maskOf_map_getLsbD s.padVoices _ PadVoice.idle (by omega), hlen]
    rfl
  case fields =>
    have hfields : ∀ x ∈ fieldRegs.map (fun r => (r.addr, regValue s r)), reads x.1 x.2 :=
      List.forall_mem_map.2 fun r hr => by
        obtain ⟨hlow, hmap, hdata⟩ := fieldRegs_mapped r hr
        exact mapped ((ofAddr_low hlow).trans hmap) hdata
    exact hfields
  case chain =>
    have hchain : ∀ x ∈ (List.range 16).map (fun j => (0x0030 + j, chainWord s.chain j)), reads x.1 x.2 :=
      List.forall_mem_map.2 fun j hj => mapped (r := .chain j) (ofAddr_chain s.params (List.mem_range.1 hj)) nofun
    exact hchain
  case flt =>
    exact forall_rows (word := filterWord (s.filter c)) rfl fun j hj => mapped (r := .flt c j) (ofAddr_flt hlegal hc hj) nofun
  case pad => exact forall_rows (pad_rows (s.pad p)) fun j hj => mapped (r := .pad p j) (ofAddr_pad s.params hp hj) nofun
  case voice => exact forall_rows (voice_rows (s.voice k)) fun j hj => mapped (r := .voice k j) (ofAddr_voice s.params hk hj) nofun
  case padVoice =>
    exact forall_rows (word := padVoiceWord (s.padVoice m)) rfl fun j hj =>
      mapped (r := .padVoice m j) (ofAddr_padVoice hlegal hm hj) nofun
  case out => exact mapped (r := .out c i) (ofAddr_out hlegal hc hi) nofun

end Sys2Proof.Machine
end

section
/-!
What a command can have done, once for all commands (`Effect`, `effect_of_exec`). Every rule about all commands is then a case analysis of
the effects, and a predicate that every effect keeps, and that does not speak of the queues and of the command being executed, is kept by
every step (`step_keeps`).
-/
namespace Sys2Proof.Machine

/-! ### The effects -/

/-- What a write of `PM_ADDR` or of a staging register makes of these registers (R43, R276). -/
def StagedBy (a : Nat) (w : Word) (g g' : Staging) : Prop :=
  (a = 0x0020 ∧ g' = { g with pmAddr := w }) ∨ (a = 0x0024 ∧ g' = { g with base := w }) ∨ (a = 0x0025 ∧ g' = { g with frames := w }) ∨
    (a = 0x0026 ∧ g' = { g with chans := w }) ∨ (a = 0x0027 ∧ g' = { g with fileid := w })

/-- The commands that trigger pad `p` (R179, R198). -/
def Triggers (i : Instr) (p : Nat) (vel : F32) : Prop :=
  i = .padTrig p vel ∨ ∃ note chan, i = .noteOn note chan vel ∧ 36 ≤ note ∧ note ≤ 43 ∧ p = note - 36

/-- The next states a command can leave of a state, with the checks it has passed. -/
inductive Effect (s : State) : Instr → State → Prop where
  /-- Nothing: `NOP`, a stop in the pad range, a trigger of an unloaded pad, a `PAD_CLEAR` of a bad index. -/
  | nothing (i : Instr) : Effect s i s
  /-- The fault entry alone. -/
  | fault (i : Instr) (code : FaultCode) : Effect s i (raiseFault code s)
  /-- The fault entry of an `RDREG`, after its zero word. -/
  | readFault (a : Nat) (code : FaultCode) : Effect s (.rdreg a) (raiseFault code (pushResponse s.curPort 0#32 s))
  | prepare {n : Nat} {r : F32} (hport : s.curPort = .p0) (hok : prepareOk s.params n r = true) :
      Effect s (.prepare n r) (engineClear (configure n r s))
  | release (hport : s.curPort = .p0) : Effect s .release (engineClear { s with prepared := false })
  | render {n : Nat} (hport : s.curPort = .p0) (hprep : s.prepared = true) (hn : n ≤ s.maxBlock.toNat) :
      Effect s (.render n) (renderBlock s n)
  | start {note : Nat} (chan : Nat) {vel : F32} (hport : s.curPort = .p0) (hprep : s.prepared = true) (hnote : note < 36 ∨ 43 < note) :
      Effect s (.noteOn note chan vel) (synthStart (synthAlloc s) note vel (advanceSynthNext (synthAlloc s) s))
  | off {note : Nat} (chan : Nat) (vel : F32) (hport : s.curPort = .p0) (hprep : s.prepared = true) :
      Effect s (.noteOff note chan vel) (synthStop note true s)
  | cut {note : Nat} (chan : Nat) (vel : F32) (hport : s.curPort = .p0) (hprep : s.prepared = true) :
      Effect s (.noteCut note chan vel) (synthStop note false s)
  | trigger {i : Instr} {p : Nat} {vel : F32} (hi : Triggers i p vel) (hp : p < 8) (hl : (s.pad p).loaded = true) :
      Effect s i (advancePadNext (setPadVoice s.padNext.toNat (triggeredVoice p vel) s))
  | load {p : Nat} (hok : padLoadOk p s = true) :
      Effect s (.padLoad p) (setLoadOk s.curPort true (setPad p (stagedSlot s) (padInvalidate p s)))
  | loadFailed (p : Nat) : Effect s (.padLoad p) (setLoadOk s.curPort false s)
  | clear {p : Nat} (hp : p < 8) : Effect s (.padClear p) (setPad p PadSlot.empty (padInvalidate p s))
  | writeParam (r : ParamReg) {w : Word} (hw : isNaN w = false) :
      Effect s (.wrreg r.addr w) (setParam r (legalise w r.lo r.hi) s)
  | stage {a : Nat} {w : Word} {g : Staging} (hg : StagedBy a w s.staging g) : Effect s (.wrreg a w) (setStaging g s)
  | writePm (w : Word) (hin : s.staging.pmAddr.toNat < s.params.padMemWords) :
      Effect s (.wrreg 0x0021 w) (advancePmAddr (pmWrite s.staging.pmAddr.toNat w s))
  | read (a : Nat) (w : Word) : Effect s (.rdreg a) (pushResponse s.curPort w s)
  | readPm (w : Word) : Effect s (.rdreg 0x0021) (advancePmAddr (pushResponse s.curPort w s))

/-! ### Every command has one of them -/

theorem effect_of_padTrigger {i : Instr} {p : Nat} {vel : F32} (s : State) (hi : Triggers i p vel) : Effect s i (padTrigger p vel s) := by
  rcases padTrigger_cases p vel s with ⟨-, h⟩ | ⟨hp, hl, h⟩ <;> rw [h]
  · exact .nothing i
  · exact .trigger hi hp hl

theorem effect_of_writeReg {r : Reg} {w : Word} {s t : State} (h : writeReg r w s = .next t) : Effect s (.wrreg r.addr w) t := by
  cases r with
  | param q =>
    cases hw : isNaN w with
    | true =>
      obtain rfl := Host.Outcome.next.inj ((writeParam_nan q w s hw).symm.trans h)
      exact .fault _ _
    | false =>
      obtain rfl := Host.Outcome.next.inj ((writeParam_number q w s hw).symm.trans h)
      exact .writeParam q hw
  | pmData =>
    rcases pmDataWrite_cases w s with ⟨hin, hw⟩ | ⟨-, hw⟩ <;> obtain rfl := Host.Outcome.next.inj (hw.symm.trans h)
    · exact .writePm w hin
    · exact .fault _ _
  | pmAddr => cases h; exact .stage (.inl ⟨rfl, rfl⟩)
  | stgBase => cases h; exact .stage (.inr (.inl ⟨rfl, rfl⟩))
  | stgFrames => cases h; exact .stage (.inr (.inr (.inl ⟨rfl, rfl⟩)))
  | stgChans => cases h; exact .stage (.inr (.inr (.inr (.inl ⟨rfl, rfl⟩))))
  | stgFileid => cases h; exact .stage (.inr (.inr (.inr (.inr ⟨rfl, rfl⟩))))
  | _ => cases h; exact .fault _ _

theorem effect_of_wrreg {a : Nat} {w : Word} {s t : State} (h : execWrreg a w s = .next t) : Effect s (.wrreg a w) t := by
  rcases execWrreg_cases h with ⟨-, rfl⟩ | ⟨r, hmap, hw⟩
  · exact .fault _ _
  · obtain rfl := addr_of_ofAddr hmap
    exact effect_of_writeReg hw

theorem effect_of_rdreg {a : Nat} {s t : State} (h : execRdreg a s = .next t) : Effect s (.rdreg a) t := by
  rcases execRdreg_cases h with ⟨-, rfl⟩ | ⟨r, -, -, rfl⟩ | ⟨hmap, hread⟩
  · exact .readFault _ _
  · exact .read _ _
  · obtain rfl := addr_of_ofAddr hmap
    rcases pmDataRead_cases s with ⟨-, hr⟩ | ⟨-, hr⟩ <;> obtain rfl := Host.Outcome.next.inj (hr.symm.trans hread)
    · exact .readPm _
    · exact .readFault _ _

theorem not_canHandle {note : Nat} (h : canHandle note = false) : 36 ≤ note ∧ note ≤ 43 := by
  have := (canHandle_iff note).not.1 (by simp [h])
  omega

theorem effect_of_noteOn {note chan : Nat} {vel : F32} {s t : State} (h : execNoteOn note chan vel s = .next t) :
    Effect s (.noteOn note chan vel) t := by
  rcases execNoteOn_cases h with ⟨code, rfl⟩ | ⟨hp, hq, -, ⟨hnote, rfl⟩ | ⟨hnote, rfl⟩⟩
  · exact .fault _ _
  · exact .start chan hp hq ((canHandle_iff note).1 hnote)
  · obtain ⟨hlo, hhi⟩ := not_canHandle hnote
    exact effect_of_padTrigger s (.inr ⟨note, chan, rfl, hlo, hhi, rfl⟩)

/-- A command that answers a next state has had one of the effects. -/
theorem effect_of_exec {i : Instr} {s t : State} (h : exec i s = .next t) : Effect s i t := by
  cases i with
  | nop => cases h; exact .nothing _
  | prepare n r =>
    rcases execPrepare_cases h with ⟨code, rfl⟩ | ⟨hp, hok, rfl⟩
    · exact .fault _ _
    · exact .prepare hp hok
  | release =>
    rcases execRelease_cases h with ⟨code, rfl⟩ | ⟨hp, rfl⟩
    · exact .fault _ _
    · exact .release hp
  | render n =>
    rcases execRender_cases h with ⟨code, rfl⟩ | ⟨hp, hq, hn, -, rfl⟩
    · exact .fault _ _
    · exact .render hp hq hn
  | noteOn note chan vel => exact effect_of_noteOn h
  | noteOff note chan vel =>
    rcases execNoteOff_cases (chan := chan) (vel := vel) h with ⟨code, rfl⟩ | ⟨hp, hq, ⟨-, rfl⟩ | ⟨-, rfl⟩⟩
    · exact .fault _ _
    · exact .off chan vel hp hq
    · exact .nothing _
  | noteCut note chan vel =>
    rcases execNoteCut_cases (chan := chan) (vel := vel) h with ⟨code, rfl⟩ | ⟨hp, hq, ⟨-, rfl⟩ | ⟨-, rfl⟩⟩
    · exact .fault _ _
    · exact .cut chan vel hp hq
    · exact .nothing _
  | padTrig p vel =>
    rcases execPadTrig_cases h with ⟨-, rfl⟩ | ⟨-, rfl⟩
    · exact .fault _ _
    · exact effect_of_padTrigger s (.inl rfl)
  | padLoad p =>
    rcases execPadLoad_cases h with ⟨hok, rfl⟩ | ⟨-, rfl⟩
    · exact .load hok
    · exact .loadFailed p
  | padClear p =>
    rcases execPadClear_cases h with ⟨-, rfl⟩ | ⟨hp, rfl⟩
    · exact .nothing _
    · exact .clear hp
  | wrreg a w => exact effect_of_wrreg h
  | rdreg a => exact effect_of_rdreg h

/-! ### The step -/

/-- A step that is not idle pops a command, has an effect of a well-formed command and is over. An illegal word's effect is a fault,
which every command can have. -/
theorem step_effect {s t : State} (h : step s = .next t) :
    (nextPort s = none ∧ t = s) ∨
    ∃ port i u, nextPort s = some port ∧ i.wellFormed = true ∧ Effect (popCommand port s) i u ∧ t = retire u := by
  rcases step_cases h with hidle | ⟨port, u, hport, hrun, rfl⟩
  · exact .inl hidle
  · rcases runCommand_cases hrun with ⟨e, -, rfl⟩ | ⟨i, hdec, hexec⟩
    · exact .inr ⟨port, .nop, _, hport, rfl, .fault _ _, rfl⟩
    · exact .inr ⟨port, i, u, hport, (decodedWordIsItsOwnEncoding _ i hdec).1, effect_of_exec hexec, rfl⟩

/-- A predicate is kept by every step when popping a command, its effect and its end keep it. -/
theorem step_keeps {Inv : State → Prop} (hpop : ∀ port s, Inv s → Inv (popCommand port s))
    (heffect : ∀ i s t, i.wellFormed = true → Effect s i t → Inv s → Inv t) (hretire : ∀ s, Inv s → Inv (retire s))
    {s t : State} (hs : Inv s) (h : step s = .next t) : Inv t := by
  rcases step_effect h with ⟨-, rfl⟩ | ⟨port, i, u, -, hwf, heff, rfl⟩
  · exact hs
  · exact hretire u (heffect i _ u hwf heff (hpop port s hs))

end Sys2Proof.Machine
end

section
/-!
The step itself (spec/00_scope.md R15, spec/60_exceptions.md R297): which command it runs, what becomes of the queues and of the error
registers, and that it never stops under R36.
-/
namespace Sys2Proof.Machine

/-! ### The command a step runs (R15, R120) -/

/-- A step whose queue's head decodes runs the decoded command on the popped state. -/
theorem step_of_decode {s : State} {port : Port} {i : Instr} (hport : nextPort s = some port)
    (hcmd : decode (popCommand port s).curCmd = .ok i) : step s = retireOutcome (exec i (popCommand port s)) := by
  rw [step, hport]
  show retireOutcome (runCommand (popCommand port s)) = _
  rw [runCommand, hcmd]

theorem step_of_idle {s : State} (h0 : s.cq0 = []) (h1 : s.cq1 = []) : step s = .next s := by
  have hport : nextPort s = none := by simp [nextPort, queuesContend, h0, h1]
  rw [step, hport]

section BothFilled
variable {s : State} {w₀ w₁ : Cmd} {rest₀ rest₁ : List Cmd} (h0 : s.cq0 = w₀ :: rest₀) (h1 : s.cq1 = w₁ :: rest₁)
include h0 h1

theorem nextPort_contended : nextPort s = if Config.arbiter s.arbCount then some .p1 else some .p0 := by
  simp [nextPort, queuesContend, h0, h1]

theorem popCommand_p0_contended :
    popCommand .p0 s = { s with cq0 := rest₀, arbCount := s.arbCount + 1, curPort := .p0, curCmd := w₀ } := by
  simp [popCommand, queuesContend, h0, h1]

theorem popCommand_p1_contended :
    popCommand .p1 s = { s with cq1 := rest₁, arbCount := s.arbCount + 1, curPort := .p1, curCmd := w₁ } := by
  simp [popCommand, queuesContend, h0, h1]

end BothFilled

/-- Settles O6: in each of the four cases the served queue is known, and `step_of_decode` runs its head on the popped state. -/
theorem stepRunsTheDecodedCommand : Obligations.StepRunsTheDecodedCommand := by
  refine ⟨fun s w rest i h0 h1 hw => ?p0, fun s w rest i h0 h1 hw => ?p1,
    fun s w₀ w₁ rest₀ rest₁ i₀ i₁ h0 h1 hw₀ hw₁ => ?both, fun s => step_of_idle⟩
  case p0 =>
    have hpop := popCommand_p0_alone h0 h1
    rw [step_of_decode (nextPort_p0_alone h0 h1) (by rw [hpop]; exact hw), hpop]
  case p1 =>
    have hpop := popCommand_p1_alone h0 h1
    rw [step_of_decode (nextPort_p1_alone h0 h1) (by rw [hpop]; exact hw), hpop]
  case both =>
    have hport := nextPort_contended h0 h1
    split_ifs at hport ⊢
    · have hpop := popCommand_p1_contended h0 h1
      rw [step_of_decode hport (by rw [hpop]; exact hw₁), hpop]
    · have hpop := popCommand_p0_contended h0 h1
      rw [step_of_decode hport (by rw [hpop]; exact hw₀), hpop]

/-! ### The queues (R15, R91, R96) -/

/-- No command touches the command queues. -/
theorem Effect.queues {s t : State} {i : Instr} (h : Effect s i t) : t.cq0 = s.cq0 ∧ t.cq1 = s.cq1 := by
  cases h <;> exact ⟨rfl, rfl⟩

/-- Settles O7: the pop takes the head of the served queue, and the effect leaves both queues as the pop left them. -/
theorem stepTakesOneCommandInOrder : Obligations.StepTakesOneCommandInOrder := by
  intro s t h
  have hport := nextPort_cases s
  rcases step_effect h with ⟨hnone, rfl⟩ | ⟨port, i, u, hserved, -, heff, rfl⟩
  · simp only [hnone, reduceCtorEq, false_and, or_false, true_and] at hport
    exact .inl ⟨hport.1, hport.2, rfl⟩
  · obtain ⟨hq0, hq1⟩ := heff.queues
    rw [retire_cq0, retire_cq1, hq0, hq1]
    cases port with
    | p0 =>
      simp only [hserved, reduceCtorEq, Option.some.injEq, false_and, or_false, false_or, true_and] at hport
      obtain ⟨w, rest, hw⟩ := List.exists_cons_of_ne_nil hport.1
      exact .inr (.inl ⟨w, rest, hw, congrArg List.tail hw, rfl⟩)
    | p1 =>
      simp only [hserved, reduceCtorEq, Option.some.injEq, false_and, false_or, true_and] at hport
      obtain ⟨w, rest, hw⟩ := List.exists_cons_of_ne_nil hport.1
      exact .inr (.inr ⟨w, rest, hw, congrArg List.tail hw, rfl⟩)

/-! ### The error registers (R32, R296, R297) -/

/-- A command leaves the error registers or writes them by the fault entry. -/
theorem Effect.err {s t : State} {i : Instr} (h : Effect s i t) :
    t.err = s.err ∨ ∃ code, t.err = errorEntry code s.curPort s.curCmd s.err := by
  cases h with
  | fault _ code => exact .inr ⟨code, rfl⟩
  | readFault _ code => exact .inr ⟨code, rfl⟩
  | _ => exact .inl rfl

theorem step_err {s t : State} (h : step s = .next t) : t.err = s.err ∨ ∃ code port cmd, t.err = errorEntry code port cmd s.err := by
  rcases step_effect h with ⟨-, rfl⟩ | ⟨port, i, u, -, -, heff, rfl⟩
  · exact .inl rfl
  · rcases heff.err with hsame | ⟨code, hentry⟩
    · exact .inl hsame
    · exact .inr ⟨code, _, _, hentry⟩

theorem error_and_errorEntry (code : FaultCode) (port : Port) (cmd : Cmd) (e : ErrorRegs) :
    e.error &&& (errorEntry code port cmd e).error = e.error := by
  rw [errorEntry_error]
  ext k
  simp only [BitVec.getElem_and, BitVec.getElem_or, Bool.and_or_distrib_left, Bool.and_self]
  cases e.error[k] <;> rfl

/-- The bits a fault sets are bits 1 to 7 (R32). -/
theorem FaultCode.bit_in_range (code : FaultCode) : BitVec.ofNat 32 (2 ^ code.number) &&& ~~~0xFE#32 = 0#32 := by
  cases code <;> rfl

theorem or_and_mask (x y m : Word) : (x ||| y) &&& m = x &&& m ||| y &&& m := by
  ext k
  simp only [BitVec.getElem_and, BitVec.getElem_or, Bool.and_or_distrib_right]

/-- The fault entry keeps the error registers as R32 describes them. -/
theorem errorInv_of_errorEntry {s t : State} {code : FaultCode} {port : Port} {cmd : Cmd}
    (h : t.err = errorEntry code port cmd s.err) (hs : ErrorInv s) : ErrorInv t := by
  obtain ⟨hbits, -, hlater⟩ := hs
  have hset := errorEntry_getLsbD code port cmd s.err
  refine ⟨?bits, fun hzero => absurd hzero (h ▸ errorEntry_error_ne_zero code port cmd s.err), fun _ => ?record⟩
  case bits =>
    rw [h, errorEntry_error, or_and_mask, hbits, code.bit_in_range]
    rfl
  case record =>
    by_cases hfirst : s.err.error = 0#32
    · refine ⟨code, port, ?_, by rw [h, hset]; simp⟩
      rw [h, errorEntry_first _ _ _ _ hfirst, Nat.mul_comm]
    · obtain ⟨first, from_, hrecord, hbit⟩ := hlater hfirst
      refine ⟨first, from_, ?_, by rw [h, hset, hbit]; rfl⟩
      rw [h, errorEntry_later _ _ _ _ hfirst]
      exact hrecord

/-- Settles O16: a step leaves the error registers or writes them by the fault entry, which only adds a bit and records the first fault. -/
theorem errorRecordIsStickyAndSound : Obligations.ErrorRecordIsStickyAndSound := by
  intro s t h
  rcases step_err h with hsame | ⟨code, port, cmd, hentry⟩
  · have hinv : ErrorInv s → ErrorInv t := fun hs => by rwa [ErrorInv, hsame]
    rw [hsame]
    exact ⟨BitVec.and_self, fun _ => ⟨rfl, rfl, rfl⟩, hinv⟩
  · refine ⟨?sticky, fun hlater => ?record, errorInv_of_errorEntry hentry⟩
    case sticky => rw [hentry, error_and_errorEntry]
    case record =>
      rw [hentry, errorEntry_later _ _ _ _ hlater]
      exact ⟨rfl, rfl, rfl⟩

/-! ### No step stops (R36, R247, R290) -/

theorem onP0_answers {s : State} {run : Host.Outcome State Fault Refusal} (h : ∃ t, run = .next t) : ∃ t, onP0 s run = .next t := by
  cases hp : s.curPort with
  | p0 => rwa [onP0_p0 s run hp]
  | p1 => exact ⟨_, onP0_p1 s run hp⟩

theorem whenPrepared_answers {s : State} {run : Host.Outcome State Fault Refusal} (h : ∃ t, run = .next t) :
    ∃ t, whenPrepared s run = .next t := by
  cases hq : s.prepared with
  | true => rwa [whenPrepared_yes s run hq]
  | false => exact ⟨_, whenPrepared_no s run hq⟩

theorem ite_answers {c : Prop} [Decidable c] {run other : Host.Outcome State Fault Refusal} (h : ∃ t, run = .next t)
    (h' : ∃ t, other = .next t) : ∃ t, (if c then run else other) = .next t := by
  split_ifs
  · exact h
  · exact h'

theorem execRender_answers {s : State} (h : PadInv s) (n : Nat) : ∃ t, execRender n s = .next t := by
  refine onP0_answers (whenPrepared_answers (ite_answers ⟨_, rfl⟩ ?_))
  rw [if_pos (h.readsExist n)]
  exact ⟨_, rfl⟩

theorem execWrreg_answers (a : Nat) (w : Word) (s : State) : ∃ t, execWrreg a w s = .next t := by
  unfold execWrreg
  split
  · exact ⟨_, rfl⟩
  · next r _ =>
    cases r with
    | param | pmData => exact ite_answers ⟨_, rfl⟩ ⟨_, rfl⟩
    | _ => exact ⟨_, rfl⟩

theorem execRdreg_answers (a : Nat) (s : State) : ∃ t, execRdreg a s = .next t := by
  unfold execRdreg
  split
  · exact ⟨_, rfl⟩
  · exact ite_answers (ite_answers ⟨_, rfl⟩ ⟨_, rfl⟩) ⟨_, rfl⟩

/-- Under R36 every command answers a next state. -/
theorem exec_answers {s : State} (h : PadInv s) (i : Instr) : ∃ t, exec i s = .next t := by
  cases i with
  | nop => exact ⟨_, rfl⟩
  | prepare => exact onP0_answers (ite_answers ⟨_, rfl⟩ ⟨_, rfl⟩)
  | release => exact onP0_answers ⟨_, rfl⟩
  | render n => exact execRender_answers h n
  | noteOn => exact onP0_answers (whenPrepared_answers (ite_answers ⟨_, rfl⟩ (ite_answers ⟨_, rfl⟩ ⟨_, rfl⟩)))
  | noteOff | noteCut => exact onP0_answers (whenPrepared_answers (ite_answers ⟨_, rfl⟩ ⟨_, rfl⟩))
  | padTrig | padLoad | padClear => exact ite_answers ⟨_, rfl⟩ ⟨_, rfl⟩
  | wrreg a w => exact execWrreg_answers a w s
  | rdreg a => exact execRdreg_answers a s

theorem runCommand_answers {s : State} (h : PadInv s) : ∃ t, runCommand s = .next t := by
  cases hd : decode s.curCmd with
  | error e => exact ⟨_, runCommand_illegal hd⟩
  | ok i =>
    rw [runCommand, hd]
    exact exec_answers h i

theorem padInv_popCommand (port : Port) {s : State} (h : PadInv s) : PadInv (popCommand port s) := ⟨h.params, h.slots, h.voices⟩

/-- Settles O52: popping a command keeps R36, under which the command answers a next state. -/
theorem stepNeverStops : Obligations.StepNeverStops := by
  intro s h
  unfold step
  split
  · exact ⟨_, rfl⟩
  · next port _ =>
    obtain ⟨u, hu⟩ := runCommand_answers (padInv_popCommand port h)
    exact ⟨retire u, by rw [hu]; rfl⟩

end Sys2Proof.Machine
end

section
/-!
The invariants of the arrays, of the voices, of the pads and of the memories (spec/10_state.md R20, R25, R35, R36, R45). Each is kept by every
effect (`Effect.shapeInv` and the like): most effects do not touch what it speaks of, and for the others there is a lemma about the records
they write. `step_keeps` then gives the statement about the step.
-/
namespace Sys2Proof.Machine

/-! ### The sizes of the arrays (R20, R35) -/

theorem shapeInv_engineClear {s : State} (h : ShapeInv s) : ShapeInv (engineClear s) where
  params := h.params
  voices := List.length_replicate
  pads := h.pads
  padVoices := List.length_replicate
  padNext := by
    obtain ⟨-, ⟨hpv, -⟩, -⟩ := h.params
    exact hpv
  flt := List.length_replicate
  out := h.out

theorem shapeInv_renderBlock {s : State} (h : ShapeInv s) (n : Nat) : ShapeInv (renderBlock s n) where
  params := h.params
  voices := by rw [renderBlock_voices_eq, List.length_map, h.voices]
  pads := h.pads
  padVoices := by rw [renderBlock_padVoices_eq, List.length_map, h.padVoices]; rfl
  padNext := h.padNext
  flt := by rw [renderBlock_flt, filterState, List.length_map, List.length_range]; rfl
  out := by rw [renderBlock_out, List.length_map, List.length_range]; rfl

theorem Effect.shapeInv {s t : State} {i : Instr} (heff : Effect s i t) (h : ShapeInv s) : ShapeInv t := by
  cases heff with
  | prepare => exact shapeInv_engineClear ⟨h.params, h.voices, h.pads, h.padVoices, h.padNext, h.flt, h.out⟩
  | release => exact shapeInv_engineClear ⟨h.params, h.voices, h.pads, h.padVoices, h.padNext, h.flt, h.out⟩
  | render => exact shapeInv_renderBlock h _
  | start => exact { h with voices := List.length_set.trans h.voices }
  | off | cut => exact { h with voices := (List.length_map _).trans h.voices }
  | @trigger _ p vel _ hp hl =>
    have htrigger := shapeInv_padTrigger h p vel
    rwa [padTrigger_eq, if_pos ⟨hp, hl⟩] at htrigger
  | load => exact { h with pads := List.length_set.trans h.pads, padVoices := (List.length_map _).trans h.padVoices }
  | clear => exact { h with pads := List.length_set.trans h.pads, padVoices := (List.length_map _).trans h.padVoices }
  | _ => exact ⟨h.params, h.voices, h.pads, h.padVoices, h.padNext, h.flt, h.out⟩

/-- Settles O53, by `Effect.shapeInv`. -/
theorem stepKeepsShape : Obligations.StepKeepsShape := fun _ _ hs h =>
  step_keeps (Inv := ShapeInv) (fun _ _ h => ⟨h.params, h.voices, h.pads, h.padVoices, h.padNext, h.flt, h.out⟩)
    (fun _ _ _ _ heff => heff.shapeInv) (fun _ h => ⟨h.params, h.voices, h.pads, h.padVoices, h.padNext, h.flt, h.out⟩) hs h

/-! ### The voices settled (R25 c and d) -/

theorem settled_zero : Voice.zero.settled := ⟨fun _ => ⟨rfl, rfl⟩, fun h => by cases h⟩

/-- A started envelope is not Idle: it attacks, decays or sustains (R142). -/
theorem envNoteOn_stage (e : Env) : (envNoteOn e).stage ≠ .idle := by
  unfold envNoteOn
  split_ifs <;> simp

theorem settled_voiceStart (p : Params) (r : ParamRegs) (fs : F32) (note : Nat) (vel : F32) (v : Voice) :
    (voiceStart p r fs note vel v).settled :=
  ⟨fun h => (by cases h), fun _ => envNoteOn_stage _⟩

/-- A cut voice is silent; a released one is in Release or silent (R143, R144, R180). -/
theorem settled_voiceStop {v : Voice} (h : v.settled) (ha : v.active = true) (fs : F32) (tail : Bool) : (voiceStop fs tail v).settled := by
  cases tail with
  | false => exact ⟨fun _ => ⟨rfl, rfl⟩, fun h => by cases h⟩
  | true =>
    rw [voiceStop_tail fs v ha, if_neg (h.2 ha)]
    split_ifs
    · exact ⟨fun hidle => absurd (ha.symm.trans hidle) (by decide), fun _ => by simp⟩
    · exact ⟨fun _ => ⟨rfl, rfl⟩, fun h => by cases h⟩

/-- A block frees a voice exactly when its envelope has become Idle, and it is silent then (R149, R167). -/
theorem settled_voiceAfter {v : Voice} (h : v.settled) (fs : F32) (n : Nat) : (voiceAfter fs n v).settled := by
  cases ha : v.active with
  | false => rwa [voiceAfter_of_inactive ha]
  | true =>
    by_cases hs : (envNextSample^[n] v.env).stage = .idle
    · have hlevel := silentIdle_iterate h.silentIdle n hs
      rw [voiceAfter_of_idle ha hs]
      simp only [Voice.settled, iterate_voiceStep_env]
      exact ⟨fun _ => ⟨hs, hlevel⟩, fun h => by cases h⟩
    · rw [voiceAfter_of_sounding ha hs]
      simp only [Voice.settled, iterate_voiceStep_env, iterate_voiceStep_active]
      exact ⟨fun hidle => absurd (ha.symm.trans hidle) (by decide), fun _ => hs⟩

/-- A stop writes the voices that hold the note. -/
theorem settled_synthStop {s : State} (h : VoicesSettled s) (note : Nat) (tail : Bool) : VoicesSettled (synthStop note tail s) := by
  rw [synthStop_eq]
  refine List.forall_mem_map.2 fun v hv => ?_
  split_ifs with hmatch
  · exact settled_voiceStop (h v hv) hmatch.1 s.fs tail
  · exact h v hv

theorem Effect.voicesSettled {s t : State} {i : Instr} (heff : Effect s i t) (h : VoicesSettled s) : VoicesSettled t := by
  cases heff with
  | prepare | release =>
    intro v hv
    rw [List.eq_of_mem_replicate hv]
    exact settled_zero
  | render =>
    intro v hv
    rw [renderBlock_voices_eq] at hv
    obtain ⟨u, hu, rfl⟩ := List.mem_map.1 hv
    exact settled_voiceAfter (h u hu) _ _
  | start =>
    intro v hv
    rcases List.mem_or_eq_of_mem_set hv with hv | rfl
    · exact h v hv
    · exact settled_voiceStart _ _ _ _ _ _
  | off | cut => exact settled_synthStop h _ _
  | _ => exact h

/-- Settles O54, by `Effect.voicesSettled`. -/
theorem stepKeepsVoicesSettled : Obligations.StepKeepsVoicesSettled := fun _ _ hs h =>
  step_keeps (Inv := VoicesSettled) (fun _ _ h => h) (fun _ _ _ _ heff => heff.voicesSettled) (fun _ h => h) hs h

/-! ### The pads sound (R36) -/

theorem PadVoice.sound_idle (s : State) : PadVoice.idle.sound s :=
  ⟨fun h => absurd h (by decide), fun _ => rfl⟩

theorem PadSlot.sound_empty (p : Params) : PadSlot.empty.sound p :=
  ⟨fun h => (by cases h), fun _ => rfl⟩

/-- What `PAD_LOAD` commits is sound: its frames are those that were checked (R203, R204). -/
theorem sound_stagedSlot {s : State} {p : Nat} (h : padLoadOk p s = true) : (stagedSlot s).sound s.params := by
  obtain ⟨-, hframes, hchans, hfits⟩ := (padLoadOk_iff p s).1 h
  have htoNat : (stagedSlot s).frames.toNat = loadFrames s := by
    have hle : loadFrames s ≤ s.staging.frames.toNat := Nat.min_le_left _ _
    have := s.staging.frames.isLt
    exact Nat.mod_eq_of_lt (by omega)
  refine ⟨fun _ => ?_, fun h => by cases h⟩
  rw [htoNat]
  exact ⟨hframes, Nat.min_le_right _ _, hchans, hfits⟩

/-- A slot of the array with another slot replaced. -/
theorem pad_setPad_ne {p q : Nat} (h : q ≠ p) (d : PadSlot) (s : State) : (setPad p d s).pad q = s.pad q := by
  simp only [State.pad, setPad_pads, List.getD_eq_getElem?_getD, List.getElem?_set_ne (Ne.symm h)]

/-- A slot may be replaced by a sound one once the voices on it are stopped (R200, R203, R205). -/
theorem padInv_setPad {s : State} (h : PadInv s) (p : Nat) {d : PadSlot} (hd : d.sound s.params) :
    PadInv (setPad p d (padInvalidate p s)) := by
  refine ⟨h.params, fun d' hd' => ?slots, fun w hw => ?voices⟩
  case slots =>
    rcases List.mem_or_eq_of_mem_set hd' with hd' | rfl
    · exact h.slots d' hd'
    · exact hd
  case voices =>
    obtain ⟨v, hv, rfl⟩ := List.mem_map.1 hw
    rcases padVoiceInvalidate_cases p v with ⟨-, -, hstop⟩ | ⟨hnot, hsame⟩
    · rw [hstop]
      exact ⟨fun ha => absurd ha (by simp [v.stopped_inactive]), fun _ => rfl⟩
    · rw [hsame]
      obtain ⟨hplays, hidle⟩ := h.voices v hv
      refine ⟨fun ha => ?_, hidle⟩
      rw [pad_setPad_ne fun hsrc => hnot ⟨ha, hsrc⟩]
      exact hplays ha

/-- A voice bound to a loaded pad is at its first frame (R197). -/
theorem sound_triggeredVoice {s : State} (h : PadInv s) {p : Nat} (hp : p < 8) (hl : (s.pad p).loaded = true) (vel : F32) :
    (triggeredVoice p vel).sound s := by
  have hsrc : (triggeredVoice p vel).src.toNat = p := Nat.mod_eq_of_lt hp
  have hpos : (triggeredVoice p vel).pos.toInt = 0 := rfl
  obtain ⟨hregion, -⟩ := h.slots _ (State.pad_mem_of_loaded hl)
  obtain ⟨hframes, -⟩ := hregion hl
  refine ⟨fun _ => ?_, fun hidle => absurd ((triggeredVoice p vel).active_iff.2 hpos.ge) (by simp [hidle])⟩
  rw [hsrc, hpos]
  exact ⟨hl, by omega⟩

theorem padInv_engineClear {s : State} (h : PadInv s) : PadInv (engineClear s) := by
  refine ⟨h.params, h.slots, fun v hv => ?_⟩
  rw [List.eq_of_mem_replicate hv]
  exact PadVoice.sound_idle _

theorem Effect.padInv {s t : State} {i : Instr} (heff : Effect s i t) (h : PadInv s) : PadInv t := by
  cases heff with
  | prepare | release => exact padInv_engineClear ⟨h.params, h.slots, h.voices⟩
  | render => exact padInv_renderBlock h _
  | trigger _ hp hl =>
    refine ⟨h.params, h.slots, fun v hv => ?_⟩
    rcases List.mem_or_eq_of_mem_set hv with hv | rfl
    · exact h.voices v hv
    · exact sound_triggeredVoice h hp hl _
  | @load p hok =>
    have hload := padInv_setPad h p (sound_stagedSlot hok)
    exact ⟨hload.params, hload.slots, hload.voices⟩
  | clear => exact padInv_setPad h _ (PadSlot.sound_empty _)
  | _ => exact ⟨h.params, h.slots, h.voices⟩

/-- Settles O55, by `Effect.padInv`. -/
theorem stepKeepsPadsSound : Obligations.StepKeepsPadsSound := fun _ _ hs h =>
  step_keeps (Inv := PadInv) (fun port _ => padInv_popCommand port) (fun _ _ _ _ heff => heff.padInv)
    (fun _ h => ⟨h.params, h.slots, h.voices⟩) hs h

/-! ### A prepared engine (R21, R256) -/

theorem preparedInv_of_prepareOk {s : State} (hlegal : s.params.Legal) {n : Nat} {r : F32} (hok : prepareOk s.params n r = true) :
    PreparedInv (engineClear (configure n r s)) := by
  obtain ⟨⟨hfin, hpos⟩, hne, hmax⟩ := (prepareOk_iff _ _ _).1 hok
  have hblock : (engineClear (configure n r s)).maxBlock.toNat = n := toNat_ofNat_maxBlock hlegal hmax
  refine fun _ => ⟨hfin, hpos, ?_, ?_⟩ <;> rw [hblock]
  · exact Nat.one_le_iff_ne_zero.2 hne
  · exact hmax

theorem Effect.params {s t : State} {i : Instr} (heff : Effect s i t) : t.params = s.params := by cases heff <;> rfl

theorem Effect.preparedInv {s t : State} {i : Instr} (heff : Effect s i t) (hlegal : s.params.Legal) (h : PreparedInv s) :
    PreparedInv t := by
  cases heff with
  | prepare _ hok => exact preparedInv_of_prepareOk hlegal hok
  | release => exact fun hq => by cases hq
  | _ => exact h

/-! ### The memories (R45, R82) -/

theorem Memory.below_iff (m : Memory) (n : Nat) : Memory.below m n = true ↔ ∀ e ∈ m, e.1 < n := by
  simp only [Memory.below, List.all_eq_true, decide_eq_true_eq]

/-- A row of `OUT` in its canonical form, within the entries that exist. -/
def RowInv (n : Nat) (row : Memory) : Prop := Memory.wf row = true ∧ Memory.noZero row = true ∧ Memory.below row n = true

theorem rowInv_nil (n : Nat) : RowInv n [] := ⟨rfl, rfl, rfl⟩

theorem rowInv_storeBlock {n : Nat} {row : Memory} (h : RowInv n row) {block : List F32} (hblock : block.length ≤ n) :
    RowInv n (Memory.storeBlock row block) := by
  obtain ⟨hwf, hzero, hbelow⟩ := h
  refine ⟨Memory.wf_storeBlock row block hwf, Memory.noZero_storeBlock row block hzero, (Memory.below_iff _ _).2 ?_⟩
  exact Memory.below_storeBlock row block n ((Memory.below_iff _ _).1 hbelow) hblock

/-- A block that fits the output buffer leaves every row canonical (R45, R267). -/
theorem memInv_renderBlock {s : State} (h : MemInv s) {n : Nat} (hn : n ≤ s.params.hwMaxBlock) : MemInv (renderBlock s n) := by
  refine ⟨h.pm, h.pmBelow, fun row hrow => ?_⟩
  rw [renderBlock_out] at hrow
  obtain ⟨c, hc, rfl⟩ := List.mem_map.1 hrow
  have hold : RowInv s.params.hwMaxBlock (s.out.getD c []) := by
    rcases Nat.lt_or_ge c s.out.length with hlt | hge
    · rw [List.getD_eq_getElem _ _ hlt]
      exact h.out _ (List.getElem_mem hlt)
    · rw [List.getD_eq_default _ _ hge]
      exact rowInv_nil _
  exact rowInv_storeBlock hold (((shaped_renderOut s n).row (List.mem_range.1 hc)).trans_le hn)

theorem memInv_pmWrite {s : State} (h : MemInv s) (w : Word) (hin : s.staging.pmAddr.toNat < s.params.padMemWords) :
    MemInv (advancePmAddr (pmWrite s.staging.pmAddr.toNat w s)) where
  pm := Memory.wf_insert _ _ _ h.pm
  pmBelow := (Memory.below_iff _ _).2 (Memory.below_insert _ _ _ _ ((Memory.below_iff _ _).1 h.pmBelow) hin)
  out := h.out

theorem Effect.memInv {s t : State} {i : Instr} (heff : Effect s i t) (hprep : PreparedInv s) (h : MemInv s) : MemInv t := by
  cases heff with
  | render _ hq hn =>
    obtain ⟨-, -, -, hmax⟩ := hprep hq
    exact memInv_renderBlock h (hn.trans hmax)
  | writePm w hin => exact memInv_pmWrite h w hin
  | _ => exact ⟨h.pm, h.pmBelow, h.out⟩

/-- What keeps the memories canonical by induction on the steps: a prepared engine's block fits the output buffer. -/
structure MemPrepInv (s : State) : Prop where
  legal : s.params.Legal
  prepared : PreparedInv s
  mem : MemInv s

/-- Settles O57, by `Effect.memInv` and `Effect.preparedInv`. -/
theorem stepKeepsMemoriesCanonical : Obligations.StepKeepsMemoriesCanonical := by
  intro s t hlegal hprep hmem h
  have hstep : MemPrepInv t :=
    step_keeps (Inv := MemPrepInv) (fun _ _ h => ⟨h.legal, h.prepared, h.mem.pm, h.mem.pmBelow, h.mem.out⟩)
      (fun _ _ _ _ heff h =>
        ⟨heff.params ▸ h.legal, heff.preparedInv h.legal h.prepared, heff.memInv h.prepared h.mem⟩)
      (fun _ h => ⟨h.legal, h.prepared, h.mem.pm, h.mem.pmBelow, h.mem.out⟩) ⟨hlegal, hprep, hmem⟩ h
  exact hstep.mem

end Sys2Proof.Machine
end

section
/-!
The ranges of the voices and of the registers (spec/10_state.md R25, R41, R42; spec/40_envelope.md R151, R152; spec/41_oscillator_voice.md
R168). The rates a start and a release compute are quotients of numbers that are not negative, with the NaN of 0/0 and of inf/inf guarded
(`nonNeg_guardRate_fdiv`); a frame keeps a voice in its ranges (`ranged_voiceStep`), and so does a block.
-/
namespace Sys2Proof.Machine

/-! ### The rates (R141, R143, R152) -/

theorem nonNeg_fZero : nonNeg fZero = true := by decide

/-- The product of two positive numbers, infinity included, is not negative and has no sign, also where it rounds to zero. -/
theorem fmul_of_pos {a b : F32} (ha : fgt a fZero = true) (hb : fgt b fZero = true) :
    nonNeg (fmul a b) = true ∧ fSign (fmul a b) = false := by
  obtain ⟨hsigna, hbitsa⟩ := sign_and_bits_of_pos ha
  obtain ⟨hsignb, hbitsb⟩ := sign_and_bits_of_pos hb
  obtain ⟨-, hnana, -⟩ := (flt_iff _ _).1 ha
  obtain ⟨-, hnanb, -⟩ := (flt_iff _ _).1 hb
  by_cases hinf : (isInf a || isInf b) = true
  · have hmul : fmul a b = fInf false := by
      simp [fmul, hnana, hnanb, hinf, hbitsa, hbitsb, hsigna, hsignb]
    rw [hmul]
    decide
  · have hmul : fmul a b = fMake false (roundMag (fMag a * fMag b) (2 ^ 149)) := by
      simp [fmul, hnana, hnanb, hinf, hsigna, hsignb]
    have hle := roundMag_le (fMag a * fMag b) (2 ^ 149)
    rw [hmul, nonNeg_iff, fKey_fMake _ (by omega), fSign_fMake _ _ (by omega)]
    exact ⟨⟨isNaN_fMake_roundMag _ _ _, Int.natCast_nonneg _⟩, rfl⟩

/-- The guard leaves a number as it is and a NaN as `+0.0`. -/
theorem nonNeg_guardRate {x : F32} (h : isNaN x = false → nonNeg x = true) : nonNeg (guardRate x) = true := by
  unfold guardRate
  split_ifs with hnan
  · exact nonNeg_fZero
  · exact h (Bool.eq_false_iff.2 hnan)

/-- By `+0.0` a number that is not negative gives infinity or a NaN. -/
theorem fdiv_of_zero {a b : F32} (ha : nonNeg a = true) (hs : fSign b = false) (hb : fMagBits b = 0) :
    isNaN (fdiv a b) = true ∨ nonNeg (fdiv a b) = true := by
  obtain ⟨hnana, hkeya⟩ := (nonNeg_iff a).1 ha
  obtain ⟨hnanb, hinfb⟩ := classes_of_isFinite (isFinite_of_zero hb)
  have hdiv : fdiv a b = if isInf a then fInf (fSign a) else if fMagBits a = 0 then fNaN else fInf (fSign a) := by
    simp [fdiv, hnana, hnanb, hinfb, hb, hs]
  rw [hdiv]
  split_ifs with hinf hzero
  · rw [fSign_of_isInf_of_fKey_nonneg hinf hkeya]
    decide
  · decide
  · have hsign : fSign a = false := by
      by_contra hneg
      exact hzero ((fMag_eq_zero_iff a).1 (fMag_eq_zero_of_fSign hkeya (by simpa using hneg)))
    rw [hsign]
    decide

/-- By infinity a finite number gives a zero, an infinity a NaN. -/
theorem fdiv_of_inf {a b : F32} (hnana : isNaN a = false) (hb : isInf b = true) :
    isNaN (fdiv a b) = true ∨ nonNeg (fdiv a b) = true := by
  have hdiv : fdiv a b = if isInf a then fNaN else fMake (fSign a != fSign b) 0 := by
    simp [fdiv, hnana, isNaN_of_isInf hb, hb]
  rw [hdiv]
  split_ifs
  · decide
  · cases fSign a != fSign b <;> decide

/-- A guarded quotient of numbers that are not negative is not negative (R152). -/
theorem nonNeg_guardRate_fdiv {a b : F32} (ha : nonNeg a = true) (hb : nonNeg b = true) (hs : fSign b = false) :
    nonNeg (guardRate (fdiv a b)) = true := by
  obtain ⟨hnana, -⟩ := (nonNeg_iff a).1 ha
  obtain ⟨hnanb, hkeyb⟩ := (nonNeg_iff b).1 hb
  have hquot : isNaN (fdiv a b) = true ∨ nonNeg (fdiv a b) = true := by
    rcases isFinite_or_isInf hnanb with hfin | hinf
    · by_cases hzero : fMagBits b = 0
      · exact fdiv_of_zero ha hs hzero
      · have hbits := fMagBits_of_fKey_nonneg hkeyb
        have hpos : fgt b fZero = true := by
          have hz : isNaN fZero = false ∧ fKey fZero = 0 := by decide
          exact (flt_iff _ _).2 ⟨hz.1, hnanb, by omega⟩
        exact .inr (nonNeg_fdiv ha hfin hpos)
    · exact fdiv_of_inf hnana hinf
  exact nonNeg_guardRate fun hnan => hquot.resolve_left (by simp [hnan])

/-- What is left of 1.0 above a number of [0, 1] is not negative. -/
theorem nonNeg_one_fsub {x : F32} (hx : inUnit x = true) : nonNeg (fsub fOne x) = true := by
  obtain ⟨h0, h1⟩ := (inUnit_iff x).1 hx
  obtain ⟨-, hkey⟩ := (nonNeg_iff x).1 h0
  obtain ⟨-, hone⟩ := (fle_one_iff x).1 h1
  have hbits := fMagBits_of_fKey_nonneg hkey
  have hfin : isFinite (fNeg x) = true := (isFinite_fNeg x).trans ((isFinite_iff x).2 (by omega))
  obtain ⟨hnan, hsum⟩ := fadd_of_isFinite (a := fOne) (by decide) hfin
  have hmag := fMag_le_one (x := x) (by omega)
  refine (nonNeg_iff _).2 ⟨hnan, ?_⟩
  rw [fsub, hsum]
  refine fKey_roundSigned_nonneg ?_ 1
  rw [fScaled_fNeg, fScaled_of_fKey_nonneg hkey, fScaled_fOne]
  omega

section Rates
variable {fs : F32} (hpos : fgt fs fZero = true)
include hpos

theorem nonNeg_attackRate (attack : F32) : nonNeg (attackRate attack fs) = true := by
  cases h : fgt attack fZero with
  | false => rw [attackRate_of_not_pos fs h]; exact nonNeg_fZero
  | true =>
    obtain ⟨hnonneg, hsign⟩ := fmul_of_pos h hpos
    rw [attackRate_of_pos fs h]
    exact nonNeg_guardRate_fdiv (by decide) hnonneg hsign

theorem nonNeg_decayRate (decay : F32) {sustain : F32} (hs : inUnit sustain = true) : nonNeg (decayRate decay sustain fs) = true := by
  cases h : fgt decay fZero with
  | false => rw [decayRate_of_not_pos _ fs h]; exact nonNeg_fZero
  | true =>
    obtain ⟨hnonneg, hsign⟩ := fmul_of_pos h hpos
    rw [decayRate_of_pos _ fs h]
    exact nonNeg_guardRate_fdiv (nonNeg_one_fsub hs) hnonneg hsign

theorem nonNeg_releaseRate {level release : F32} (hl : inUnit level = true) (hr : fgt release fZero = true) :
    nonNeg (releaseRate level release fs) = true := by
  obtain ⟨hnonneg, hsign⟩ := fmul_of_pos hr hpos
  exact nonNeg_guardRate_fdiv ((inUnit_iff _).1 hl).1 hnonneg hsign

end Rates

/-! ### A voice in its ranges -/

theorem ranged_zero : Voice.zero.Ranged := by constructor <;> decide

/-- A start keeps the phase and the release rate; the rest is from legal registers and from `FREQ_ROM` (R162, R178). -/
theorem ranged_voiceStart {s : State} (hregs : ParamsLegal s) (hpos : fgt s.fs fZero = true) {note : Nat} (hnote : note < 128) (vel : F32)
    {v : Voice} (h : v.Ranged) : (voiceStart s.params s.regs s.fs note vel v).Ranged := by
  obtain ⟨hfin, hfreq⟩ := freqRom_isFinite_and_pos s.params hnote
  obtain ⟨-, hnan, hkey⟩ := (flt_iff _ _).1 hfreq
  have hsustain : inUnit s.regs.envSustain = true := hregs .envSustain
  have hnonneg (r : ParamReg) (hlo : r.lo = fZero) : nonNeg (r.read s.regs) = true := by
    have hlegal := hregs r
    rw [ParamReg.legal, hlo, Bool.and_eq_true] at hlegal
    exact hlegal.1
  constructor
  · exact h.phase
  · exact (nonNeg_iff _).2 ⟨hnan, hkey.le⟩
  · exact inUnit_envNoteOn h.level hsustain
  · exact (envNoteOn_sustain _).symm ▸ hsustain
  · exact (envNoteOn_attack _).symm ▸ hnonneg .envAttack rfl
  · exact (envNoteOn_decay _).symm ▸ hnonneg .envDecay rfl
  · exact (envNoteOn_release _).symm ▸ hnonneg .envRelease rfl
  · exact (envNoteOn_arate _).symm ▸ nonNeg_attackRate hpos _
  · exact (envNoteOn_drate _).symm ▸ nonNeg_decayRate hpos _ hsustain
  · exact (envNoteOn_rrate _).symm ▸ h.rrate

/-- A stop keeps what a voice was started with; it computes the release rate or silences the voice (R143, R144). -/
theorem ranged_voiceStop {fs : F32} (hpos : fgt fs fZero = true) {v : Voice} (h : v.Ranged) (ha : v.active = true) (tail : Bool) :
    (voiceStop fs tail v).Ranged := by
  cases tail with
  | false => exact { h with level := inUnit_fZero }
  | true =>
    rw [voiceStop_tail fs v ha]
    split_ifs with hidle hrel
    · exact { h with }
    · exact { h with rrate := nonNeg_releaseRate hpos h.level hrel }
    · exact { h with level := inUnit_fZero }

section Frames
variable {fs : F32} (hfin : isFinite fs = true) (hpos : fgt fs fZero = true)
include hfin hpos

/-- A frame moves the phase and the level only (R166), each within its range. -/
theorem ranged_voiceStep {v : Voice} (h : v.Ranged) : (voiceStep fs v).Ranged where
  phase := inUnitOpen_phase_iterate hfin hpos h.phase h.freq 1
  freq := h.freq
  level := inUnit_envNextSample h.level h.sustain h.arate h.drate h.rrate
  sustain := (envNextSample_sustain _).symm ▸ h.sustain
  attack := (envNextSample_attack _).symm ▸ h.attack
  decay := (envNextSample_decay _).symm ▸ h.decay
  release := (envNextSample_release _).symm ▸ h.release
  arate := (envNextSample_arate _).symm ▸ h.arate
  drate := (envNextSample_drate _).symm ▸ h.drate
  rrate := (envNextSample_rrate _).symm ▸ h.rrate

theorem ranged_iterate {v : Voice} (h : v.Ranged) (n : Nat) : ((voiceStep fs)^[n] v).Ranged := by
  induction n with
  | zero => exact h
  | succ n ih =>
    rw [Function.iterate_succ_apply']
    exact ranged_voiceStep hfin hpos ih

theorem ranged_voiceAfter {v : Voice} (h : v.Ranged) (n : Nat) : (voiceAfter fs n v).Ranged := by
  have hrun := ranged_iterate hfin hpos h n
  unfold voiceAfter voiceFree
  split_ifs
  · exact hrun
  · exact { hrun with }
  · exact h

end Frames

/-! ### The invariant (R25, R41, R42, R151, R168) -/

theorem paramsLegal_setParam {s : State} (h : ParamsLegal s) (r : ParamReg) {w : Word} (hw : isNaN w = false) :
    ParamsLegal (setParam r (legalise w r.lo r.hi) s) := by
  intro q
  rw [setParam_regs]
  by_cases hq : q = r
  · rw [hq, ParamReg.read_write_same]
    exact r.legal_legalise hw
  · rw [ParamReg.read_write_ne r q _ _ hq]
    exact h q

/-- What the pool answers outside the array is in its ranges too. -/
theorem ranged_voice {s : State} (h : ∀ v ∈ s.voices, v.Ranged) (k : Nat) : (s.voice k).Ranged := by
  rcases Nat.lt_or_ge k s.voices.length with hk | hk
  · rw [State.voice, List.getD_eq_getElem _ _ hk]
    exact h _ (List.getElem_mem hk)
  · rw [State.voice, List.getD_eq_default _ _ hk]
    exact ranged_zero

theorem ranged_synthStop {s : State} (h : RangeInv s) (hq : s.prepared = true) (note : Nat) (tail : Bool) :
    ∀ v ∈ (synthStop note tail s).voices, v.Ranged := by
  obtain ⟨-, hpos, -⟩ := h.prepared hq
  rw [synthStop_eq]
  refine List.forall_mem_map.2 fun v hv => ?_
  split_ifs with hmatch
  · exact ranged_voiceStop hpos (h.voices v hv) hmatch.1 tail
  · exact h.voices v hv

theorem Effect.ranged {s t : State} {i : Instr} (hwf : i.wellFormed = true) (heff : Effect s i t) (h : RangeInv s) :
    ∀ v ∈ t.voices, v.Ranged := by
  cases heff with
  | prepare | release =>
    intro v hv
    rw [List.eq_of_mem_replicate hv]
    exact ranged_zero
  | render _ hq =>
    obtain ⟨hfin, hpos, -⟩ := h.prepared hq
    rw [renderBlock_voices_eq]
    exact List.forall_mem_map.2 fun v hv => ranged_voiceAfter hfin hpos (h.voices v hv) _
  | start _ _ hq =>
    obtain ⟨-, hpos, -⟩ := h.prepared hq
    have hnote := of_decide_eq_true (Bool.and_eq_true_iff.1 hwf).1
    intro v hv
    rcases List.mem_or_eq_of_mem_set hv with hv | rfl
    · exact h.voices v hv
    · exact ranged_voiceStart h.regs hpos hnote _ (ranged_voice h.voices _)
  | off _ _ _ hq | cut _ _ _ hq => exact ranged_synthStop h hq _ _
  | _ => exact h.voices

theorem Effect.paramsLegal {s t : State} {i : Instr} (heff : Effect s i t) (h : ParamsLegal s) : ParamsLegal t := by
  cases heff with
  | writeParam r hw => exact paramsLegal_setParam h r hw
  | _ => exact h

/-- Settles O56, by `Effect.ranged`, `Effect.paramsLegal` and `Effect.preparedInv`; that the decoded note is below 128 is from O2. -/
theorem stepKeepsRanges : Obligations.StepKeepsRanges := by
  intro s t hlegal hrange h
  have hstep : t.params.Legal ∧ RangeInv t :=
    step_keeps (Inv := fun s => s.params.Legal ∧ RangeInv s) (fun _ _ ⟨hl, h⟩ => ⟨hl, h.prepared, h.regs, h.voices⟩)
      (fun _ _ _ hwf heff ⟨hl, h⟩ =>
        ⟨heff.params ▸ hl, heff.preparedInv hl h.prepared, heff.paramsLegal h.regs, heff.ranged hwf h⟩)
      (fun _ ⟨hl, h⟩ => ⟨hl, h.prepared, h.regs, h.voices⟩) ⟨hlegal, hrange⟩ h
  exact hstep.2

/-! ### After reset (R50, R320) -/

theorem paramsLegal_resetWith (p : Params) : ParamsLegal (State.resetWith p) := by
  intro r
  show r.legal (r.read ParamRegs.atReset) = true
  cases r <;> decide

theorem shapeInv_resetWith {p : Params} (hp : p.Legal) : ShapeInv (State.resetWith p) where
  params := hp
  voices := List.length_replicate
  pads := List.length_replicate
  padVoices := List.length_replicate
  padNext := by
    obtain ⟨-, ⟨hpv, -⟩, -⟩ := hp
    exact hpv
  flt := List.length_replicate
  out := List.length_replicate

theorem padInv_resetWith {p : Params} (hp : p.Legal) : PadInv (State.resetWith p) where
  params := hp
  slots := fun d hd => by
    rw [List.eq_of_mem_replicate hd]
    exact PadSlot.sound_empty _
  voices := fun v hv => by
    rw [List.eq_of_mem_replicate hv]
    exact PadVoice.sound_idle _

theorem rangeInv_resetWith (p : Params) : RangeInv (State.resetWith p) where
  prepared := fun h => by cases h
  regs := paramsLegal_resetWith p
  voices := fun v hv => by
    rw [List.eq_of_mem_replicate hv]
    exact ranged_zero

theorem voicesSettled_resetWith (p : Params) : VoicesSettled (State.resetWith p) := fun v hv => by
  rw [List.eq_of_mem_replicate hv]
  exact settled_zero

theorem memInv_resetWith (p : Params) : MemInv (State.resetWith p) where
  pm := rfl
  pmBelow := rfl
  out := fun row hrow => by
    rw [List.eq_of_mem_replicate hrow]
    exact rowInv_nil _

theorem errorInv_resetWith (p : Params) : ErrorInv (State.resetWith p) := ⟨BitVec.zero_and, fun _ => rfl, fun h => absurd rfl h⟩

/-- Settles O59, one invariant after the other; the external reset is `State.resetWith` but for the two counters. -/
theorem resetMeetsEveryInvariant : Obligations.ResetMeetsEveryInvariant :=
  ⟨fun p hp => ⟨shapeInv_resetWith hp, voicesSettled_resetWith p, rangeInv_resetWith p, padInv_resetWith hp, memInv_resetWith p,
    errorInv_resetWith p, rfl, rfl⟩, fun _ => rfl⟩

end Sys2Proof.Machine
end

section
/-!
Who writes what (spec/10_state.md R21 to R45, spec/46_render_control.md R268, spec/60_exceptions.md R301). For each piece of state one lemma
says that an effect leaves it alone or belongs to a command its rule names; of a single voice `VoiceEffect` says what can have happened to
its record, and each field is read off that.
-/
namespace Sys2Proof.Machine

/-! ### The kinds of commands -/

/-- The commands that clear the engine (R257). -/
def Clears (i : Instr) : Prop := (∃ n r, i = .prepare n r) ∨ i = .release

def Renders (i : Instr) : Prop := ∃ n, i = .render n

/-- A note started outside the pad range (R179). -/
def Starts (i : Instr) : Prop := ∃ n c v, i = .noteOn n c v ∧ (n < 36 ∨ 43 < n)

def Stops (i : Instr) : Prop := ∃ n c v, i = .noteOff n c v

def Cuts (i : Instr) : Prop := ∃ n c v, i = .noteCut n c v

/-- The commands that may trigger a pad (R179, R198). -/
def TriggersPads (i : Instr) : Prop := (∃ p v, i = .padTrig p v) ∨ ∃ n c v, i = .noteOn n c v ∧ 36 ≤ n ∧ n ≤ 43

theorem Triggers.triggersPads {i : Instr} {p : Nat} {vel : F32} (h : Triggers i p vel) : TriggersPads i := by
  rcases h with rfl | ⟨note, chan, rfl, hlo, hhi, -⟩
  · exact .inl ⟨_, _, rfl⟩
  · exact .inr ⟨_, _, _, rfl, hlo, hhi⟩

/-- The commands that stop the pad voices of a slot (R200). -/
def ChangesPads (i : Instr) : Prop := ∃ p, i = .padLoad p ∨ i = .padClear p

/-! ### The pieces of state with one kind of writer -/

section Writers
variable {s t : State} {i : Instr} (h : Effect s i t)
include h

/-- No command writes the parameters, the command queues, the command at hand or the counters. -/
theorem Effect.frame : t.params = s.params ∧ t.cq0 = s.cq0 ∧ t.cq1 = s.cq1 ∧ t.curPort = s.curPort ∧ t.curCmd = s.curCmd ∧
    t.pmEpoch = s.pmEpoch ∧ t.arbCount = s.arbCount := by
  cases h <;> exact ⟨rfl, rfl, rfl, rfl, rfl, rfl, rfl⟩

theorem Effect.pads : t.pads = s.pads ∨ ChangesPads i := by
  cases h with
  | load => exact .inr ⟨_, .inl rfl⟩
  | clear => exact .inr ⟨_, .inr rfl⟩
  | _ => exact .inl rfl

theorem Effect.pm : t.pm = s.pm ∨ ∃ w, i = .wrreg 0x0021 w := by
  cases h with
  | writePm w => exact .inr ⟨w, rfl⟩
  | _ => exact .inl rfl

theorem Effect.output : (t.out = s.out ∧ t.outCount = s.outCount ∧ t.chain = s.chain) ∨ Renders i := by
  cases h with
  | render => exact .inr ⟨_, rfl⟩
  | _ => exact .inl ⟨rfl, rfl, rfl⟩

theorem Effect.prepared : t.prepared = s.prepared ∨ Clears i := by
  cases h with
  | prepare => exact .inr (.inl ⟨_, _, rfl⟩)
  | release => exact .inr (.inr rfl)
  | _ => exact .inl rfl

theorem Effect.configuration : (t.fs = s.fs ∧ t.maxBlock = s.maxBlock) ∨ ∃ n r, i = .prepare n r := by
  cases h with
  | prepare => exact .inr ⟨_, _, rfl⟩
  | _ => exact .inl ⟨rfl, rfl⟩

theorem Effect.regs : t.regs = s.regs ∨ ∃ (r : ParamReg) (w : Word), i = .wrreg r.addr w := by
  cases h with
  | writeParam r => exact .inr ⟨r, _, rfl⟩
  | _ => exact .inl rfl

theorem Effect.loadOk : (t.loadOk0 = s.loadOk0 ∧ t.loadOk1 = s.loadOk1) ∨ ∃ p, i = .padLoad p := by
  cases h with
  | load | loadFailed => exact .inr ⟨_, rfl⟩
  | _ => exact .inl ⟨rfl, rfl⟩

theorem Effect.responses : (t.rq0 = s.rq0 ∧ t.rq1 = s.rq1) ∨ ∃ a, i = .rdreg a := by
  cases h with
  | read | readPm | readFault => exact .inr ⟨_, rfl⟩
  | _ => exact .inl ⟨rfl, rfl⟩

theorem Effect.synthNext : t.synthNext = s.synthNext ∨ (∃ n c v, i = .noteOn n c v) ∨ Clears i := by
  cases h with
  | start => exact .inr (.inl ⟨_, _, _, rfl⟩)
  | prepare => exact .inr (.inr (.inl ⟨_, _, rfl⟩))
  | release => exact .inr (.inr (.inr rfl))
  | _ => exact .inl rfl

theorem Effect.chainState : (t.flt = s.flt ∧ t.rvs = s.rvs) ∨ Renders i ∨ Clears i := by
  cases h with
  | render => exact .inr (.inl ⟨_, rfl⟩)
  | prepare => exact .inr (.inr (.inl ⟨_, _, rfl⟩))
  | release => exact .inr (.inr (.inr rfl))
  | _ => exact .inl ⟨rfl, rfl⟩

theorem Effect.padNext : t.padNext = s.padNext ∨ TriggersPads i ∨ Clears i := by
  cases h with
  | trigger hi => exact .inr (.inl hi.triggersPads)
  | prepare => exact .inr (.inr (.inl ⟨_, _, rfl⟩))
  | release => exact .inr (.inr (.inr rfl))
  | _ => exact .inl rfl

/-- The staging registers are written whole by the words of R43, `PM_ADDR` by an access of `PM_DATA` too. -/
theorem Effect.staging :
    t.staging = s.staging ∨ (∃ a w, i = .wrreg a w ∧ StagedBy a w s.staging t.staging) ∨
    (((∃ w, i = .wrreg 0x0021 w) ∨ i = .rdreg 0x0021) ∧ ∃ w, t.staging = { s.staging with pmAddr := w }) := by
  cases h with
  | stage hg => exact .inr (.inl ⟨_, _, rfl, hg⟩)
  | writePm w => exact .inr (.inr ⟨.inl ⟨w, rfl⟩, _, rfl⟩)
  | readPm => exact .inr (.inr ⟨.inr rfl, _, rfl⟩)
  | _ => exact .inl rfl

/-- A command that writes the error registers does nothing else, but for the zero word of an `RDREG`. -/
theorem Effect.errFrame : t.err = s.err ∨ ∃ code : FaultCode,
    t = { s with err := errorEntry code s.curPort s.curCmd s.err, rq0 := t.rq0, rq1 := t.rq1 } := by
  cases h with
  | fault _ code => exact .inr ⟨code, rfl⟩
  | readFault _ code => exact .inr ⟨code, rfl⟩
  | _ => exact .inl rfl

end Writers

/-! ### The staging registers one by one -/

/-- Which register a staging write changes. -/
theorem StagedBy.fields {a : Nat} {w : Word} {g g' : Staging} (h : StagedBy a w g g') :
    (g'.pmAddr = g.pmAddr ∨ a = 0x0020) ∧ (g'.base = g.base ∨ a = 0x0024) ∧ (g'.frames = g.frames ∨ a = 0x0025) ∧
    (g'.chans = g.chans ∨ a = 0x0026) ∧ (g'.fileid = g.fileid ∨ a = 0x0027) := by
  rcases h with ⟨rfl, rfl⟩ | ⟨rfl, rfl⟩ | ⟨rfl, rfl⟩ | ⟨rfl, rfl⟩ | ⟨rfl, rfl⟩ <;> simp

theorem Effect.stagingFields {s t : State} {i : Instr} (h : Effect s i t) :
    (t.staging.pmAddr = s.staging.pmAddr ∨ (∃ w, i = .wrreg 0x0020 w ∨ i = .wrreg 0x0021 w) ∨ i = .rdreg 0x0021) ∧
    (t.staging.base = s.staging.base ∨ ∃ w, i = .wrreg 0x0024 w) ∧ (t.staging.frames = s.staging.frames ∨ ∃ w, i = .wrreg 0x0025 w) ∧
    (t.staging.chans = s.staging.chans ∨ ∃ w, i = .wrreg 0x0026 w) ∧ (t.staging.fileid = s.staging.fileid ∨ ∃ w, i = .wrreg 0x0027 w) := by
  rcases h.staging with hsame | ⟨a, w, rfl, hg⟩ | ⟨hi, w, hg⟩
  · rw [hsame]
    exact ⟨.inl rfl, .inl rfl, .inl rfl, .inl rfl, .inl rfl⟩
  · obtain ⟨hpm, hbase, hframes, hchans, hfileid⟩ := hg.fields
    have written {b : Nat} (hb : a = b) : ∃ w', Instr.wrreg a w = .wrreg b w' := ⟨w, by rw [hb]⟩
    exact ⟨hpm.imp_right fun hb => .inl ((written hb).imp fun _ => .inl), hbase.imp_right written, hframes.imp_right written,
      hchans.imp_right written, hfileid.imp_right written⟩
  · rw [hg]
    exact ⟨.inr (hi.imp_left fun ⟨w, h⟩ => ⟨w, .inr h⟩), .inl rfl, .inl rfl, .inl rfl, .inl rfl⟩

/-! ### The synth voices -/

/-- What can have become of the array: one record written, every record changed by a function that makes none active, or cleared. -/
theorem Effect.voices {s t : State} {i : Instr} (h : Effect s i t) :
    t.voices = s.voices ∨ (Starts i ∧ ∃ k v, t.voices = s.voices.set k v) ∨
    ((Stops i ∨ Cuts i ∨ Renders i) ∧ ∃ f : Voice → Voice, t.voices = s.voices.map f ∧ ∀ v, (f v).active = true → v.active = true) ∨
    (Clears i ∧ t.voices = List.replicate 8 Voice.zero) := by
  have hstop (fs : F32) (note : Nat) (tail : Bool) (v : Voice)
      (hv : (if v.active = true ∧ v.note.toNat = note then voiceStop fs tail v else v).active = true) : v.active = true := by
    split_ifs at hv with hmatch
    · exact hmatch.1
    · exact hv
  cases h with
  | start _ _ _ hnote => exact .inr (.inl ⟨⟨_, _, _, rfl, hnote⟩, _, _, rfl⟩)
  | off => exact .inr (.inr (.inl ⟨.inl ⟨_, _, _, rfl⟩, _, congrArg State.voices (synthStop_eq _ _ _), hstop _ _ _⟩))
  | cut => exact .inr (.inr (.inl ⟨.inr (.inl ⟨_, _, _, rfl⟩), _, congrArg State.voices (synthStop_eq _ _ _), hstop _ _ _⟩))
  | render =>
    refine .inr (.inr (.inl ⟨.inr (.inr ⟨_, rfl⟩), _, renderBlock_voices_eq _ _, fun v hv => ?_⟩))
    by_contra hidle
    rw [voiceAfter_of_inactive (by simpa using hidle)] at hv
    exact hidle hv
  | prepare => exact .inr (.inr (.inr ⟨.inl ⟨_, _, rfl⟩, rfl⟩))
  | release => exact .inr (.inr (.inr ⟨.inr rfl, rfl⟩))
  | _ => exact .inl rfl

/-- A block keeps what a voice was started with (R268). -/
theorem voiceAfter_keeps (fs : F32) (n : Nat) (v : Voice) :
    (voiceAfter fs n v).freq = v.freq ∧ (voiceAfter fs n v).velgain = v.velgain ∧ (voiceAfter fs n v).note = v.note ∧
    (voiceAfter fs n v).env =
      { v.env with stage := (voiceAfter fs n v).env.stage, level := (voiceAfter fs n v).env.level } := by
  have henv : ∀ m, envNextSample^[m] v.env =
      { v.env with stage := (envNextSample^[m] v.env).stage, level := (envNextSample^[m] v.env).level } := by
    intro m
    induction m with
    | zero => rfl
    | succ m ih =>
      rw [Function.iterate_succ_apply', envNextSample_frame, ih]
  unfold voiceAfter
  split_ifs
  · simp only [voiceFree_freq, voiceFree_velgain, voiceFree_note, voiceFree_env]
    rw [iterate_voiceStep_frame]
    exact ⟨rfl, rfl, rfl, henv n⟩
  · exact ⟨rfl, rfl, rfl, rfl⟩

/-- What can have happened to the record `v` of one synth voice, which is `u` after the command. -/
inductive VoiceEffect (i : Instr) (v : Voice) : Voice → Prop where
  | same : VoiceEffect i v v
  | cleared (hi : Clears i) (u : Voice) : VoiceEffect i v u
  | started (hi : Starts i) {u : Voice} (hphase : u.phase = v.phase) (hrrate : u.env.rrate = v.env.rrate) : VoiceEffect i v u
  | rendered (hi : Renders i) (fs : F32) (n : Nat) : VoiceEffect i v (voiceAfter fs n v)
  | released (hi : Stops i) (ha : v.active = true) (fs : F32) : VoiceEffect i v (voiceStop fs true v)
  | cut (hi : Cuts i) (fs : F32) : VoiceEffect i v (voiceStop fs false v)

theorem voice_setVoice (s : State) (k m : Nat) (v : Voice) :
    (setVoice k v s).voice m = s.voice m ∨ (m = k ∧ (setVoice k v s).voice m = v) := by
  simp only [State.voice, setVoice_voices, List.getD_eq_getElem?_getD, List.getElem?_set]
  split_ifs with hk hlt
  · exact .inr ⟨hk.symm, rfl⟩
  · exact .inl (by rw [← hk, List.getElem?_eq_none (Nat.not_lt.1 hlt)])
  · exact .inl rfl

theorem voice_synthStop (note : Nat) (tail : Bool) (s : State) (k : Nat) :
    (synthStop note tail s).voice k =
      if (s.voice k).active = true ∧ (s.voice k).note.toNat = note then voiceStop s.fs tail (s.voice k) else s.voice k := by
  rw [synthStop_eq]
  exact List.getD_map s.voices Voice.zero _

theorem Effect.voice {s t : State} {i : Instr} (h : Effect s i t) (k : Nat) : VoiceEffect i (s.voice k) (t.voice k) := by
  cases h with
  | prepare => exact .cleared (.inl ⟨_, _, rfl⟩) _
  | release => exact .cleared (.inr rfl) _
  | render =>
    rw [renderBlock_voice]
    exact .rendered ⟨_, rfl⟩ _ _
  | @start note _ vel _ _ hnote =>
    rcases voice_setVoice (advanceSynthNext (synthAlloc s) s) (synthAlloc s) k
        (voiceStart s.params s.regs s.fs note vel (s.voice (synthAlloc s))) with hsame | ⟨rfl, hnew⟩
    · exact (congrArg (VoiceEffect _ (s.voice k)) hsame).mpr .same
    · refine (congrArg (VoiceEffect _ _) hnew).mpr (.started ⟨_, _, _, rfl, hnote⟩ rfl ?_)
      exact envNoteOn_rrate _
  | off =>
    rw [voice_synthStop]
    split_ifs with hmatch
    · exact .released ⟨_, _, _, rfl⟩ hmatch.1 _
    · exact .same
  | cut =>
    rw [voice_synthStop]
    split_ifs with hmatch
    · exact .cut ⟨_, _, _, rfl⟩ _
    · exact .same
  | _ => exact .same

/-- A release keeps all but the stage and the release rate, and where it ends the voice at once the level too (R143). -/
theorem voiceStop_tail_keeps (fs : F32) {v : Voice} (ha : v.active = true) :
    ∃ stage level rrate active, voiceStop fs true v =
        { v with active := active, env := { v.env with stage := stage, level := level, rrate := rrate } } ∧
      (level ≠ v.env.level → fgt v.env.release fZero = false) ∧
      (active ≠ v.active → fgt v.env.release fZero = false ∨ v.env.stage = .idle) := by
  rw [voiceStop_tail fs v ha]
  split_ifs with hidle hrel
  · exact ⟨_, _, _, _, rfl, fun h => absurd rfl h, fun _ => .inr hidle⟩
  · exact ⟨_, _, _, _, rfl, fun h => absurd rfl h, fun h => absurd rfl h⟩
  · have hrel := Bool.eq_false_iff.2 hrel
    exact ⟨_, _, _, _, rfl, fun _ => hrel, fun _ => .inl hrel⟩

/-- Which commands change which field of a voice (R24, with log 24). -/
theorem VoiceEffect.fields {i : Instr} {v u : Voice} (h : VoiceEffect i v u) :
    (u.phase ≠ v.phase → Renders i ∨ Clears i) ∧
    (u.freq ≠ v.freq ∨ u.velgain ≠ v.velgain ∨ u.note ≠ v.note → Starts i ∨ Clears i) ∧
    (u.env.attack ≠ v.env.attack ∨ u.env.decay ≠ v.env.decay ∨ u.env.sustain ≠ v.env.sustain ∨ u.env.release ≠ v.env.release ∨
      u.env.arate ≠ v.env.arate ∨ u.env.drate ≠ v.env.drate → Starts i ∨ Clears i) ∧
    (u.env.rrate ≠ v.env.rrate → Stops i ∨ Clears i) ∧
    (u.env.stage ≠ v.env.stage → Starts i ∨ Stops i ∨ Cuts i ∨ Renders i ∨ Clears i) ∧
    (u.env.level ≠ v.env.level → Starts i ∨ (Stops i ∧ fgt v.env.release fZero = false) ∨ Cuts i ∨ Renders i ∨ Clears i) ∧
    (u.active ≠ v.active →
      Starts i ∨ (Stops i ∧ (fgt v.env.release fZero = false ∨ v.env.stage = .idle)) ∨ Cuts i ∨ Renders i ∨ Clears i) := by
  cases h with
  | same => simp
  | cleared hi => simp [hi]
  | started hi hphase hrrate => simp [hi, hphase, hrrate]
  | rendered hi fs n =>
    obtain ⟨hfreq, hgain, hnote, henv⟩ := voiceAfter_keeps fs n v
    rw [henv, hfreq, hgain, hnote]
    simp [hi]
  | released hi ha fs =>
    obtain ⟨stage, level, rrate, active, heq, hlevel, hactive⟩ := voiceStop_tail_keeps fs ha
    rw [heq]
    simp only [ne_eq, not_true_eq_false, or_self, false_imp_iff, hi, true_or, or_true, imp_true_iff, true_and]
    exact ⟨fun h => .inr (.inl (hlevel h)), fun h => .inr (.inl (hactive h))⟩
  | cut hi fs =>
    rw [voiceStop_cut]
    simp [hi]

/-! ### The pad voices -/

theorem Effect.padVoices {s t : State} {i : Instr} (h : Effect s i t) :
    t.padVoices = s.padVoices ∨ TriggersPads i ∨ ChangesPads i ∨ Renders i ∨ Clears i := by
  cases h with
  | trigger hi => exact .inr (.inl hi.triggersPads)
  | load => exact .inr (.inr (.inl ⟨_, .inl rfl⟩))
  | clear => exact .inr (.inr (.inl ⟨_, .inr rfl⟩))
  | render => exact .inr (.inr (.inr (.inl ⟨_, rfl⟩)))
  | prepare => exact .inr (.inr (.inr (.inr (.inl ⟨_, _, rfl⟩))))
  | release => exact .inr (.inr (.inr (.inr (.inr rfl))))
  | _ => exact .inl rfl

/-- Stopping the voices of a slot keeps what they play and how loud (R200). -/
theorem padVoice_padInvalidate_keeps (p m : Nat) (s : State) :
    ((padInvalidate p s).padVoice m).src = (s.padVoice m).src ∧ ((padInvalidate p s).padVoice m).gain = (s.padVoice m).gain := by
  have hvoice : (padInvalidate p s).padVoice m = padVoiceInvalidate p (s.padVoice m) :=
    List.getD_map s.padVoices PadVoice.idle (padVoiceInvalidate p)
  rw [hvoice]
  rcases padVoiceInvalidate_cases p (s.padVoice m) with ⟨-, -, h⟩ | ⟨-, h⟩ <;> rw [h] <;> exact ⟨rfl, rfl⟩

theorem renderBlock_padVoice (s : State) (n m : Nat) : (renderBlock s n).padVoice m = padVoiceAfter s n (s.padVoice m) := by
  rw [State.padVoice, renderBlock_padVoices_eq]
  exact List.getD_map s.padVoices PadVoice.idle (padVoiceAfter s n)

theorem Effect.padVoice {s t : State} {i : Instr} (h : Effect s i t) (m : Nat) :
    ((t.padVoice m).src = (s.padVoice m).src ∧ (t.padVoice m).gain = (s.padVoice m).gain) ∨ TriggersPads i ∨ Clears i := by
  cases h with
  | trigger hi => exact .inr (.inl hi.triggersPads)
  | prepare => exact .inr (.inr (.inl ⟨_, _, rfl⟩))
  | release => exact .inr (.inr (.inr rfl))
  | load | clear => exact .inl (padVoice_padInvalidate_keeps _ m s)
  | render =>
    rw [renderBlock_padVoice]
    exact .inl (padVoiceAfter_src_gain _ _ _)
  | _ => exact .inl ⟨rfl, rfl⟩

/-! ### The rules about all commands -/

/-- What was not left alone was written by one of the named commands; for pieces of state that are written together. -/
theorem writer_of_ne {p p' q : Prop} (h : (p ∧ p') ∨ q) (hne : ¬p ∨ ¬p') : q :=
  h.resolve_left fun ⟨hp, hp'⟩ => hne.elim (absurd hp) (absurd hp')

/-- Settles O50: one lemma on the effects for each piece of state. -/
theorem onlyTheNamedCommandsWrite : Obligations.OnlyTheNamedCommandsWrite := by
  intro i s t hexec
  have h := effect_of_exec hexec
  obtain ⟨hparams, hcq0, hcq1, hport, hcmd, hepoch, harb⟩ := h.frame
  obtain ⟨hpmAddr, hbase, hframes, hchans, hfileid⟩ := h.stagingFields
  refine ⟨hparams, hcq0, hcq1, hport, hcmd, hepoch, harb, h.pads.resolve_left, h.pm.resolve_left, fun hne => ?out, fun hne => ?outCount,
    fun hne => ?chain, h.prepared.resolve_left, writer_of_ne h.configuration, h.regs.resolve_left, writer_of_ne h.loadOk,
    writer_of_ne h.responses, h.synthNext.resolve_left, writer_of_ne h.chainState, fun hne => ?voices, fun k => (h.voice k).fields,
    h.padVoices.resolve_left, fun m => writer_of_ne (h.padVoice m), h.padNext.resolve_left, hpmAddr.resolve_left, hbase.resolve_left,
    hframes.resolve_left, hchans.resolve_left, hfileid.resolve_left, h.errFrame.resolve_left⟩
  case out => exact h.output.resolve_left fun hsame => hne hsame.1
  case outCount => exact h.output.resolve_left fun ⟨_, hsame, _⟩ => hne hsame
  case chain => exact h.output.resolve_left fun ⟨_, _, hsame⟩ => hne hsame
  case voices =>
    rcases h.voices with hsame | ⟨hi, -⟩ | ⟨hi, -⟩ | ⟨hi, -⟩
    · exact absurd hsame hne
    · exact .inl hi
    · exact .inr (hi.imp_right fun hi => hi.imp_right .inl)
    · exact .inr (.inr (.inr (.inr hi)))

/-- Settles O51: an effect of the six commands needs P0, and the other effects write nothing of the real-time side. -/
theorem portOneCannotTouchTheEngine : Obligations.PortOneCannotTouchTheEngine := by
  intro i s t hp hexec
  have hp0 : s.curPort ≠ .p0 := by rw [hp]; decide
  cases effect_of_exec hexec with
  | prepare hport | release hport | render hport | start _ hport | off _ _ hport | cut _ _ hport => exact absurd hport hp0
  | load | loadFailed => exact ⟨rfl, rfl, rfl, rfl, rfl, rfl, rfl, rfl, rfl, rfl, if_neg hp0, rfl⟩
  | readFault | read | readPm => exact ⟨rfl, rfl, rfl, rfl, rfl, rfl, rfl, rfl, rfl, rfl, rfl, if_neg hp0⟩
  | _ => exact ⟨rfl, rfl, rfl, rfl, rfl, rfl, rfl, rfl, rfl, rfl, rfl, rfl⟩

/-! ### The number of active voices (R184) -/

/-- Writing one record makes at most one more active. -/
theorem countP_set_le {α : Type} (p : α → Bool) (xs : List α) (k : Nat) (x : α) : (xs.set k x).countP p ≤ xs.countP p + 1 := by
  induction xs generalizing k with
  | nil => simp
  | cons y ys ih =>
    cases k with
    | zero =>
      simp only [List.set_cons_zero, List.countP_cons]
      split_ifs <;> omega
    | succ k =>
      have := ih k
      simp only [List.set_cons_succ, List.countP_cons]
      omega

theorem countP_active_map_le {f : Voice → Voice} (hf : ∀ v, (f v).active = true → v.active = true) (vs : List Voice) :
    (vs.map f).countP (fun v => v.active) ≤ vs.countP (fun v => v.active) := by
  rw [List.countP_map]
  exact List.countP_mono_left fun v _ => hf v

/-- Settles O58: of what can become of the array only a start adds an active voice, and it writes one record. -/
theorem activeVoicesGrowByAtMostOne : Obligations.ActiveVoicesGrowByAtMostOne := by
  intro i s t hlen hexec
  rcases (effect_of_exec hexec).voices with hv | ⟨⟨n, c, v, rfl, -⟩, k, w, hv⟩ | ⟨-, f, hv, hf⟩ | ⟨-, hv⟩ <;> rw [hv]
  · exact ⟨hlen ▸ List.countP_le_length, by omega, fun _ => le_rfl⟩
  · have hle := List.countP_le_length (p := fun v : Voice => v.active) (l := s.voices.set k w)
    rw [List.length_set, hlen] at hle
    exact ⟨hle, countP_set_le _ _ _ _, fun hnot => absurd rfl (hnot n c v)⟩
  · have hle := countP_active_map_le hf s.voices
    have hlast := List.countP_le_length (p := fun v : Voice => v.active) (l := s.voices)
    exact ⟨by omega, by omega, fun _ => hle⟩
  · have hnone : (List.replicate 8 Voice.zero).countP (fun v => v.active) = 0 := by decide
    rw [hnone]
    exact ⟨by omega, by omega, fun _ => by omega⟩

end Sys2Proof.Machine
end

section
/-!
The operands a command refuses and the pad notes (spec/60_exceptions.md R303, spec/42_voice_pool.md R179): past its earlier checks each of
these commands looks at one operand, and `NOTE_ON` in the pad range is a trigger.
-/
namespace Sys2Proof.Machine

theorem execPrepare_refused {s : State} {n : Nat} {rate : F32} (hp : s.curPort = .p0) (hbad : ¬prepareOk s.params n rate = true) :
    execPrepare n rate s = .next (raiseFault .badOperand s) := by
  rw [execPrepare, onP0_p0 _ _ hp, if_neg hbad, takeFault_eq]

theorem execNoteOn_nan {s : State} (note chan : Nat) {vel : F32} (hp : s.curPort = .p0) (hq : s.prepared = true)
    (hvel : isNaN vel = true) : execNoteOn note chan vel s = .next (raiseFault .badOperand s) := by
  rw [execNoteOn, onP0_p0 _ _ hp, whenPrepared_yes _ _ hq, if_pos hvel, takeFault_eq]

theorem execPadTrig_nan {vel : F32} (h : isNaN vel = true) (pad : Nat) (s : State) :
    execPadTrig pad vel s = .next (raiseFault .badOperand s) := if_pos h

/-- Settles O12, one command after the other. -/
theorem unusableOperandsFault : Obligations.UnusableOperandsFault := by
  refine ⟨fun s n rate hp hbad => execPrepare_refused hp fun hok => ?prepare, fun s n c v hp hq => execNoteOn_nan n c hp hq,
    fun s p v hv => execPadTrig_nan hv p s, fun s r v hv => (exec_wrreg_param r v s).trans (writeParam_nan r v s hv)⟩
  case prepare =>
    obtain ⟨hrate, hne, hmax⟩ := (prepareOk_iff _ _ _).1 hok
    rcases hbad with hbad | hzero | hlarge
    · exact hbad hrate
    · exact hne hzero
    · omega

theorem execNoteOn_of_pad_note {s : State} {note : Nat} (chan : Nat) {vel : F32} (hp : s.curPort = .p0) (hq : s.prepared = true)
    (hvel : isNaN vel = false) (hlo : 36 ≤ note) (hhi : note ≤ 43) :
    execNoteOn note chan vel s = .next (padTrigger (note - 36) vel s) := by
  have hpad : ¬canHandle note = true := by rw [canHandle_iff]; omega
  rw [execNoteOn, onP0_p0 _ _ hp, whenPrepared_yes _ _ hq, if_neg (by simp [hvel]), if_neg hpad]
  rfl

/-- Settles O22: in the pad range the command is the trigger of a pad below 8, which `padTrigger_eq` describes. -/
theorem noteOnInPadRangeTriggersThePad : Obligations.NoteOnInPadRangeTriggersThePad := by
  intro s note chan vel hp hq hvel hlo hhi
  have hpad : (note - 36 < 8 ∧ (s.pad (note - 36)).loaded = true) ↔ (s.pad (note - 36)).loaded = true :=
    and_iff_right (by omega)
  refine (execNoteOn_of_pad_note chan hp hq hvel hlo hhi).trans (congrArg _ ?_)
  rw [padTrigger_eq, if_congr hpad rfl rfl]
  rfl

end Sys2Proof.Machine
end

section
/-!
What a `RENDER` leaves of the voices and of the pad voices, and the block it writes (spec/41_oscillator_voice.md R166, R167;
spec/43_pad_sampler.md R210, R214; spec/46_render_control.md R259 to R267). A `RENDER` that passes its checks is `renderBlock`
(`eq_renderBlock`); the stages of the block are followed entry by entry.
-/
namespace Sys2Proof.Machine

/-- A `RENDER` that passes its checks and answers has rendered the block. -/
theorem eq_renderBlock {s t : State} {n : Nat} (hp : s.curPort = .p0) (hq : s.prepared = true) (hn : n ≤ s.maxBlock.toNat)
    (h : exec (.render n) s = .next t) : t = renderBlock s n := by
  cases hreads : padReadsExist s n with
  | true => exact (Host.Outcome.next.inj ((execRender_of_checks hp hq hn hreads).symm.trans h)).symm
  | false =>
    have hstop : execRender n s = .fault .pmAddress := by
      rw [execRender, onP0_p0 _ _ hp, whenPrepared_yes _ _ hq, if_neg (Nat.not_lt.2 hn), if_neg (by simp [hreads])]
    cases hstop.symm.trans h

/-! ### The synth voices (R166, R167, R268) -/

theorem voiceFree_eq (v : Voice) : voiceFree v = if v.env.stage = .idle then { v with active := false } else v := by
  by_cases h : v.env.stage = .idle <;> simp [voiceFree, envIsActive, h]

/-- Settles O35: the voices are those of `renderBlock_voices_eq`, and `voiceAfter_keeps` says what a block leaves of a record. -/
theorem renderAdvancesActiveVoices : Obligations.RenderAdvancesActiveVoices := by
  refine ⟨fun s t n hp hq hn h => ?_, fun _ _ => rfl, fun _ _ => rfl, voiceFree_eq⟩
  obtain rfl := eq_renderBlock hp hq hn h
  refine ⟨renderBlock_voices_eq s n, fun k _ => ?_⟩
  obtain ⟨hfreq, hgain, hnote, henv⟩ := voiceAfter_keeps s.fs n (s.voice k)
  rw [renderBlock_voice, henv]
  exact ⟨hfreq, hgain, hnote, rfl, rfl, rfl, rfl, rfl, rfl, rfl⟩

/-! ### The pad voices (R210, R214) -/

/-- Settles O37: each pad voice is that of `padVoiceAfter`; under R36 an active one is at a frame of its buffer. -/
theorem renderAdvancesPadVoices : Obligations.RenderAdvancesPadVoices := by
  intro s t n hpads hp hq hn h
  obtain rfl := eq_renderBlock hp hq hn h
  refine ⟨by rw [renderBlock_padVoices_eq, List.length_map], fun m hm => ?_⟩
  intro v len
  have hv : v ∈ s.padVoices := by
    simp only [v, State.padVoice, List.getD_eq_getElem _ _ hm]
    exact List.getElem_mem hm
  have hwithin (h0 : 0 ≤ v.pos.toInt) : v.Within s := hpads.within_of_active hv (v.active_iff.2 h0)
  obtain ⟨hsrc, hgain⟩ := padVoiceAfter_src_gain s n v
  rw [renderBlock_padVoice]
  refine ⟨hsrc, hgain, fun hidle => ?idle, fun h0 hmore => padVoiceAfter_pos_toInt (hwithin h0) hmore, fun h0 hend => ?ended⟩
  case idle => rw [padVoiceAfter_of_inactive (Bool.eq_false_iff.2 fun ha => by have := v.active_iff.1 ha; omega)]
  case ended =>
    rw [padVoiceAfter_of_ended (hwithin h0) hend]
    rfl

/-- A state in which every pad voice plays the given slot. -/
def stateOfSlot (slot : PadSlot) : State := { State.reset with pads := List.replicate 8 slot }

theorem padSlotOf_stateOfSlot (slot : PadSlot) (v : PadVoice) : padSlotOf (stateOfSlot slot) v = slot :=
  List.getD_replicate _ v.src.isLt

/-- Blocks of `n` frames one after the other are one block of all their frames. -/
theorem padVoiceAfter_iterate {s : State} {v : PadVoice} (hv : v.Within s) (n b : Nat) :
    (padVoiceAfter s n)^[b] v = padVoiceAfter s (b * n) v := by
  induction b with
  | zero =>
    have hmore : v.pos.toInt + (0 * n : Nat) < (padSlotOf s v).frames.toNat := by
      rw [Nat.zero_mul]
      exact (Int.add_zero _).trans_lt hv.before_end
    rw [padVoiceAfter_of_playing hv hmore]
    simp
  | succ b ih => rw [Function.iterate_succ_apply', ih, padVoiceAfter_add (fun _ => hv), Nat.succ_mul]

/-- Settles O49: the blocks are one block of `b * n` frames, which ends before the buffer does or reaches its end. -/
theorem sampleIsConsumedExactly : Obligations.SampleIsConsumedExactly := by
  intro slot v n hn hframes hlt hpos block
  have hslot := padSlotOf_stateOfSlot slot
  have hv0 : v.pos.toInt = 0 := by rw [hpos]; rfl
  have hv : v.Within (stateOfSlot slot) := ⟨hv0.ge, by rw [hslot, hv0]; omega, by rwa [hslot]⟩
  have hblock : block = padVoiceAfter (stateOfSlot slot) n := by
    funext u
    simp only [block, padVoiceAfter, hslot]
  rw [hblock]
  refine ⟨fun b hb => ?playing, ?ended⟩
  case playing =>
    rw [padVoiceAfter_iterate hv, padVoiceAfter_pos_toInt hv (by rw [hslot, hv0]; omega), hv0, Int.zero_add]
  case ended =>
    have hceil : slot.frames.toNat ≤ (slot.frames.toNat + n - 1) / n * n := by
      have hlast := Nat.lt_div_mul_add (a := slot.frames.toNat + n - 1) hn
      omega
    rw [padVoiceAfter_iterate hv, padVoiceAfter_of_ended hv (by rw [hslot, hv0]; omega)]
    exact v.stopped_inactive

end Sys2Proof.Machine
end

section
/-!
The block a `RENDER` writes (spec/46_render_control.md R259 to R267). Each stage after the mix is read entry by entry: the stereo matrix at a
frame (`widthApply_getD`), the filter of a channel as `filterRow` of the widened frames (`renderFilter_row`), and the reverb insert as one
`reverbFn` per frame (`reverbApply_frames`).
-/
namespace Sys2Proof.Machine

theorem zipWith_getD {f : F32 → F32 → F32} {l r : List F32} {i : Nat} (hl : i < l.length) (hr : i < r.length) :
    (List.zipWith f l r).getD i fZero = f (l.getD i fZero) (r.getD i fZero) := by
  rw [List.getD_eq_getElem _ _ (by rw [List.length_zipWith]; omega), List.getElem_zipWith, List.getD_eq_getElem _ _ hl,
    List.getD_eq_getElem _ _ hr]

/-- Sample `i` of channel `c` of a mix. -/
def Mix.sample (mix : Mix) (c i : Nat) : F32 := (mix.getD c []).getD i fZero

/-- A frame after the stereo matrix: channels 0 and 1 of two or more from the old pair, the others as they were (R222). -/
def wideAt (nch : Nat) (mid side : F32) (mix : Mix) (c i : Nat) : F32 :=
  if nch < 2 then mix.sample c i
  else if c = 0 then widthLeft mid side (mix.sample 0 i) (mix.sample 1 i)
  else if c = 1 then widthRight mid side (mix.sample 0 i) (mix.sample 1 i)
  else mix.sample c i

theorem widthApply_getD {nch n c i : Nat} {mix : Mix} (h : Mix.Shaped nch n mix) (hi : i < n) (mid side : F32) :
    (widthApply nch mid side mix).sample c i = wideAt nch mid side mix c i := by
  unfold widthApply wideAt
  by_cases hnch : 2 ≤ nch
  · rw [if_pos hnch, if_neg (by omega)]
    match mix, h with
    | [], h => exact absurd h.channels (by simp; omega)
    | [_], h => exact absurd h.channels (by simp; omega)
    | l :: r :: rest, h =>
      have hl : i < l.length := hi.trans_eq (h.frames l (by simp)).symm
      have hr : i < r.length := hi.trans_eq (h.frames r (by simp)).symm
      match c with
      | 0 => exact zipWith_getD hl hr
      | 1 => exact zipWith_getD hl hr
      | c + 2 => rfl
  · rw [if_neg hnch, if_pos (by omega)]

/-- A row of `n` samples is the list of its samples. -/
theorem row_eq_map_range {row : List F32} {n : Nat} (h : row.length = n) (f : Nat → F32) (hf : ∀ i < n, row.getD i fZero = f i) :
    row = (List.range n).map f := by
  refine List.ext_getElem (by simp [h]) fun i hi _ => ?_
  rw [List.getElem_map, List.getElem_range, ← hf i (h ▸ hi), List.getD_eq_getElem _ _ hi]

/-- A channel before the filter, frame by frame. -/
theorem renderWidth_row {s : State} {n c : Nat} (hc : c < s.params.nch) :
    (renderWidth s n).getD c [] =
      (List.range n).map (wideAt s.params.nch (renderChain s).mid (renderChain s).side (renderPads s n).2 c) :=
  row_eq_map_range ((shaped_renderWidth s n).row hc) _ fun _ hi => widthApply_getD (shaped_renderPads s n) hi _ _

/-- A channel through the filter: its samples and the state it leaves (R236). -/
def lowAt (s : State) (n c : Nat) : List F32 × Biquad :=
  filterRow (renderChain s).coefs (s.filter c)
    ((List.range n).map (wideAt s.params.nch (renderChain s).mid (renderChain s).side (renderPads s n).2 c))

theorem renderFilter_eq (s : State) (n : Nat) : renderFilter s n = (List.range s.params.nch).map (fun c => (lowAt s n c).1) := by
  refine List.map_congr_left fun c hc => ?_
  rw [renderWidth_row (List.mem_range.1 hc)]
  rfl

theorem renderBlock_filter {s : State} {n c : Nat} (hc : c < s.params.nch) : (renderBlock s n).filter c = (lowAt s n c).2 := by
  rw [State.filter, renderBlock_flt, filterState_getD hc, renderWidth_row hc]
  rfl

/-- Frame `i` as it goes into the reverb insert. -/
def lowFrame (s : State) (n i : Nat) : List F32 := (List.range s.params.nch).map (fun c => (lowAt s n c).1.getD i fZero)

theorem renderFilter_frame (s : State) (n i : Nat) : (renderFilter s n).map (fun row => row.getD i 0#32) = lowFrame s n i := by
  rw [renderFilter_eq, List.map_map]
  rfl

/-- The reverb insert over the block: the states it goes through, and the samples it gives (R245). -/
theorem renderReverb_frames (s : State) (n : Nat) :
    ∃ rv : Nat → Rvs, rv 0 = s.rvs ∧ (renderReverb s n).1 = rv n ∧ ∀ i < n,
      rv (i + 1) = (reverbFn s.params (renderChain s).reverb (rv i) (lowFrame s n i)).1 ∧
      ∀ c < s.params.nch, (renderReverb s n).2.sample c i =
        (reverbFn s.params (renderChain s).reverb (rv i) (lowFrame s n i)).2.getD c fZero := by
  obtain ⟨rv, h0, hn, hframes⟩ :=
    reverbApply_frames s.params (renderChain s).reverb n s.rvs (renderFilter s n) (shaped_renderFilter s n).channels
  refine ⟨rv, h0, hn, fun i hi => ?_⟩
  rw [← renderFilter_frame]
  exact hframes i hi

theorem reverbFn_of_bypass {p : Params} (h : p.reverb = .bypass) (rp : ReverbParams) (rvs : Rvs) (frame : List F32) :
    reverbFn p rp rvs frame = (rvs, frame) := by
  simp only [reverbFn, h]

theorem reverbFn_of_free {p : Params} (h : p.reverb = .free) (rp : ReverbParams) (rvs : Rvs) (frame : List F32) :
    reverbFn p rp rvs frame = ((Config.reverbFree rp rvs frame).1, fitFrame p.nch (Config.reverbFree rp rvs frame).2) := by
  simp only [reverbFn, h]

theorem fitFrame_getD {nch c : Nat} (hc : c < nch) (frame : List F32) : (fitFrame nch frame).getD c fZero = frame.getD c fZero := by
  have hlt : c < (fitFrame nch frame).length := by rwa [fitFrame_length]
  rw [List.getD_eq_getElem _ _ hlt]
  simp only [fitFrame, List.getElem_map, List.getElem_range]
  rfl

/-- What a block writes of a channel: the reverb's sample times the master gain (R246). -/
theorem renderBlock_outWord_eq {s : State} {n c i : Nat} (hc : c < s.params.nch) (hi : i < n) :
    (renderBlock s n).outWord c i = fmul ((renderReverb s n).2.sample c i) s.regs.masterVolume := by
  rw [renderBlock_outWord hc hi, renderOut, scaleMix_getD _ ((shaped_renderReverb s n).lt_row hc hi)]
  rfl

/-- Past the block the output stays (R45). -/
theorem renderBlock_outWord_ge {s : State} {n c i : Nat} (hc : c < s.params.nch) (hi : n ≤ i) :
    (renderBlock s n).outWord c i = s.outWord c i := by
  have hrow : (renderBlock s n).out.getD c [] = Memory.storeBlock (s.out.getD c []) ((renderOut s n).getD c []) := by
    rw [renderBlock_out]
    simp [List.getD_eq_getElem?_getD, hc]
  rw [State.outWord, hrow, Memory.readOut_storeBlock_ge _ _ _ (((shaped_renderOut s n).row hc).trans_le hi)]
  rfl

/-- Settles O34: the synth and pad mixes are those of `renderSynth` and `renderPads`, each later stage its lemma. -/
theorem renderWritesExactlyTheBlock : Obligations.RenderWritesExactlyTheBlock := by
  intro s t n hp hq hn h
  obtain rfl := eq_renderBlock hp hq hn h
  refine ⟨fun c hc => ⟨(shaped_renderOut s n).row hc, fun i hi => renderBlock_outWord hc hi, fun i hi => renderBlock_outWord_ge hc hi⟩, ?_⟩
  obtain ⟨rv, hrv0, hrvn, hframes⟩ := renderReverb_frames s n
  have hsynth := shaped_synthRender s.fs n s.voices (shaped_clearMix s.params.nch n)
  refine ⟨(renderSynth s n).2, (renderPads s n).2, rv,
    fun c hc => ⟨(shaped_renderSynth s n).row hc, fun i hi => scaleMix_getD _ (hsynth.lt_row hc hi)⟩, rfl, ?_⟩
  refine ⟨fun c hc => renderBlock_filter hc, hrv0, hrvn, fun i hi => ?_⟩
  obtain ⟨hstate, hsample⟩ := hframes i hi
  refine ⟨fun hreverb => ?bypass, fun hreverb => ?free⟩
  case bypass =>
    rw [reverbFn_of_bypass hreverb] at hstate hsample
    exact ⟨hstate, fun c hc => by rw [renderBlock_outWord_eq hc hi, hsample c hc]; rfl⟩
  case free =>
    rw [reverbFn_of_free hreverb] at hstate hsample
    exact ⟨hstate, fun c hc => by rw [renderBlock_outWord_eq hc hi, hsample c hc, fitFrame_getD hc]; rfl⟩

end Sys2Proof.Machine
end

section
/-!
The stereo matrix at atmosphere 0 and the effective cutoff (spec/44_stereo_width.md R221 to R224, spec/45_filter_chain.md R231). Multiplying by
1.0 changes no number (`fmul_fOne`) and halving a number of [100, 20000] is exact (`two_mul_fScaled_half`); a clamp of a number lies in its
range (`fclamp_mem`), and the cutoff before the clamp is a number because the parameter is finite and not zero (`isNaN_fmul_of_ne_zero`).
-/
namespace Sys2Proof.Machine

/-! ### Products -/

/-- The product of two finite values (R9). -/
theorem fmul_finite {a b : F32} (ha : isFinite a = true) (hb : isFinite b = true) :
    fmul a b = fMake (fSign a != fSign b) (roundMag (fMag a * fMag b) (2 ^ 149)) := by
  obtain ⟨hnana, hinfa⟩ := classes_of_isFinite ha
  obtain ⟨hnanb, hinfb⟩ := classes_of_isFinite hb
  simp [fmul, hnana, hinfa, hnanb, hinfb]

/-- A finite magnitude is rounded to its own pattern. -/
theorem roundMag_fMag {x : F32} (hx : isFinite x = true) {den : Nat} (hden : 0 < den) : roundMag (fMag x * den) den = fMagBits x := by
  obtain ⟨m, k, hm, hnormal, hbits, hmag⟩ := fMag_eq x
  rw [isFinite_iff] at hx
  rw [hmag, roundMag_ulps hm (by omega) hnormal hden, hbits]

theorem fInf_fSign {x : F32} (h : isInf x = true) : fInf (fSign x) = x := by
  rw [fInf, ← (isInf_iff x).1 h, fMake_self]

/-- Times 1.0 a number is itself, and so is the canonical NaN. -/
theorem fmul_fOne {x : F32} (hcanon : isNaN x = true → x = fNaN) : fmul x fOne = x := by
  have hone : isFinite fOne = true ∧ fSign fOne = false ∧ fMag fOne = 2 ^ 149 ∧ fMagBits fOne ≠ 0 := by decide
  obtain ⟨honefin, honesign, honemag, honebits⟩ := hone
  obtain ⟨honenan, -⟩ := classes_of_isFinite honefin
  rcases float_classes x with ⟨hnan, -, -⟩ | ⟨hnan, hinf, -⟩ | ⟨-, -, hfin⟩
  · rw [fmul_nan x fOne (.inl hnan), hcanon hnan]
  · have hbits : fMagBits x ≠ 0 := by rw [(isInf_iff x).1 hinf]; decide
    have hmul : fmul x fOne = fInf (fSign x) := by simp [fmul, hnan, honenan, hinf, hbits, honebits, honesign]
    rw [hmul, fInf_fSign hinf]
  · rw [fmul_finite hfin honefin, honesign, honemag, roundMag_fMag hfin (by decide), Bool.bne_false, fMake_self]

theorem isNaN_fInf (neg : Bool) : isNaN (fInf neg) = false := by cases neg <;> decide

/-- A finite number that is not zero times a number is a number. -/
theorem isNaN_fmul_of_ne_zero {a b : F32} (ha : isFinite a = true) (hne : fMagBits a ≠ 0) (hb : isNaN b = false) :
    isNaN (fmul a b) = false := by
  obtain ⟨hnana, hinfa⟩ := classes_of_isFinite ha
  rcases isFinite_or_isInf hb with hfin | hinf
  · rw [fmul_finite ha hfin]
    exact isNaN_fMake_roundMag _ _ _
  · have hbits : fMagBits b ≠ 0 := by rw [(isInf_iff b).1 hinf]; decide
    have hmul : fmul a b = fInf (fSign a != fSign b) := by simp [fmul, hnana, hb, hinf, hne, hbits]
    rw [hmul]
    exact isNaN_fInf _

/-! ### The stereo matrix (R221 to R224) -/

/-- The one NaN a sum can be is the canonical one: one case for each branch of `fadd`. -/
theorem fadd_eq_fNaN {a b : F32} (h : isNaN (fadd a b) = true) : fadd a b = fNaN := by
  rcases float_classes a with ⟨hnan, -, -⟩ | ⟨hnan, hinf, -⟩ | ⟨hnan, -, hfin⟩
  · exact fadd_nan a b (.inl hnan)
  · rcases float_classes b with ⟨hnanb, -, -⟩ | ⟨hnanb, hinfb, -⟩ | ⟨hnanb, hinfb, -⟩
    · exact fadd_nan a b (.inr hnanb)
    · by_cases hsign : fSign a = fSign b
      · rw [fadd_of_isInf_left hinf hnanb fun _ => hsign, hnan] at h
        cases h
      · simp [fadd, hnan, hnanb, hinf, hinfb, hsign]
    · rw [fadd_of_isInf_left hinf hnanb fun h => absurd h (by simp [hinfb]), hnan] at h
      cases h
  · rcases float_classes b with ⟨hnanb, -, -⟩ | ⟨hnanb, hinfb, -⟩ | ⟨-, -, hfinb⟩
    · exact fadd_nan a b (.inr hnanb)
    · rw [fadd_of_isInf_right hfin hinfb, hnanb] at h
      cases h
    · rw [(fadd_of_isFinite hfin hfinb).1] at h
      cases h

/-- A value that is not `-0.0`, of the kind a sum is. -/
theorem isSum_fadd_of_ne {l r : F32} (h : fadd l r ≠ 0x80000000#32) : IsSum (fadd l r) := by
  refine ⟨fun hbits => ?_, fadd_eq_fNaN⟩
  by_contra hsign
  have hself := fMake_self (fadd l r)
  rw [hbits, Bool.not_eq_false _ |>.mp hsign] at hself
  exact h (hself.symm.trans (by decide))

/-- Settles O39: the sum times 1.0 is the sum, and the difference times 0.0 is a zero, which changes no sum but `-0.0`. -/
theorem widthAtZeroAtmosphereIsTheSum : Obligations.WidthAtZeroAtmosphereIsTheSum := by
  refine ⟨by decide, by decide, fun l r hdiff hsum => ?_⟩
  have hmid : fmul (fadd l r) 0x3F800000#32 = fadd l r := fmul_fOne fadd_eq_fNaN
  have hside : fMagBits (fmul (fsub l r) 0x00000000#32) = 0 := fMagBits_fmul_of_zero hdiff (by decide) (.inr (by decide))
  have hsum := isSum_fadd_of_ne hsum
  rw [widthLeft, widthRight, hmid]
  exact ⟨fadd_of_isSum_of_zero hsum hside, fadd_of_isSum_of_zero hsum ((fMagBits_fNeg _).trans hside)⟩

/-! ### The effective cutoff (R231) -/

theorem fle_of_flt_eq_false {a b : F32} (ha : isNaN a = false) (hb : isNaN b = false) (h : flt a b = false) : fle b a = true := by
  refine (fle_iff b a).2 ⟨hb, ha, ?_⟩
  by_contra hkey
  rw [(flt_iff a b).2 ⟨ha, hb, by omega⟩] at h
  cases h

/-- A number clamped to a range whose bounds are in order lies in it. -/
theorem fclamp_mem {v lo hi : F32} (hv : isNaN v = false) (hrange : fle lo hi = true) :
    fle lo (fclamp v lo hi) = true ∧ fle (fclamp v lo hi) hi = true := by
  obtain ⟨hlo, hhi, -⟩ := (fle_iff lo hi).1 hrange
  have hrefl {x : F32} (hx : isNaN x = false) : fle x x = true := (fle_iff x x).2 ⟨hx, hx, le_rfl⟩
  unfold fclamp
  split_ifs with hbelow habove
  · exact ⟨hrefl hlo, hrange⟩
  · exact ⟨hrange, hrefl hhi⟩
  · exact ⟨fle_of_flt_eq_false hv hlo (Bool.eq_false_iff.2 hbelow), fle_of_flt_eq_false hhi hv (Bool.eq_false_iff.2 habove)⟩

/-- A legal cutoff is a finite normal number. -/
theorem cutoff_bits {c : F32} (h : ParamReg.lowpassCutoff.legal c = true) :
    isFinite c = true ∧ fSign c = false ∧ 2 * 2 ^ 23 ≤ fMagBits c := by
  obtain ⟨hlo, hhi⟩ := Bool.and_eq_true_iff.1 h
  obtain ⟨-, -, hlokey⟩ := (fle_iff _ _).1 hlo
  obtain ⟨-, -, hhikey⟩ := (fle_iff _ _).1 hhi
  have hbounds : fKey ParamReg.lowpassCutoff.lo = 0x42C80000 ∧ fKey ParamReg.lowpassCutoff.hi = 0x469C4000 := by decide
  rw [hbounds.1] at hlokey
  rw [hbounds.2] at hhikey
  have hbits := fMagBits_of_fKey_nonneg (x := c) (by omega)
  refine ⟨(isFinite_iff c).2 (by omega), ?_, by omega⟩
  by_contra hsign
  rw [fKey, if_pos (by simpa using hsign)] at hlokey
  omega

/-- What a legal atmosphere leaves of the cutoff is a number. -/
theorem isNaN_atmosphere_factor {atmos : F32} (h : ParamReg.atmosphere.legal atmos = true) :
    isNaN (fsub fOne (fmul atmos fHalf)) = false := by
  obtain ⟨h0, h1⟩ := (inUnit_iff atmos).1 h
  obtain ⟨-, hkey⟩ := (nonNeg_iff atmos).1 h0
  obtain ⟨-, hone⟩ := (fle_one_iff atmos).1 h1
  have hbits := fMagBits_of_fKey_nonneg hkey
  have hfin : isFinite atmos = true := (isFinite_iff atmos).2 (by omega)
  have hnan : isNaN (fNeg (fmul atmos fHalf)) = false := by
    rw [isNaN_fNeg, fmul_finite hfin (by decide)]
    exact isNaN_fMake_roundMag _ _ _
  rcases isFinite_or_isInf hnan with hfin | hinf
  · exact (fadd_of_isFinite (by decide) hfin).1
  · rw [fsub, fadd_of_isInf_right (by decide) hinf, hnan]

/-- Halving a normal number above the smallest loses nothing. -/
theorem two_mul_fScaled_half {c : F32} (hfin : isFinite c = true) (hnormal : 2 * 2 ^ 23 ≤ fMagBits c) :
    2 * fScaled (fmul c fHalf) = fScaled c := by
  obtain ⟨m, k, hm, hk, hbits, hmag⟩ := fMag_eq c
  rw [isFinite_iff] at hfin
  obtain ⟨j, rfl⟩ : ∃ j, k = j + 1 := ⟨k - 1, by omega⟩
  have hhalf : isFinite fHalf = true ∧ fSign fHalf = false ∧ fMag fHalf = 2 ^ 148 := by decide
  obtain ⟨hhalffin, hhalfsign, hhalfmag⟩ := hhalf
  have hprod : fMag c * fMag fHalf = m * 2 ^ j * 2 ^ 149 := by rw [hmag, hhalfmag]; ring
  have hexact : IsExact (m * 2 ^ j) := ⟨m, j, hm, by omega, rfl⟩
  obtain ⟨-, hval⟩ := fMag_fMake_roundMag hexact (fSign c) (den := 2 ^ 149) (by decide)
  have hle := roundMag_le (m * 2 ^ j * 2 ^ 149) (2 ^ 149)
  have hdouble : fMag c = 2 * (m * 2 ^ j) := by rw [hmag]; ring
  rw [fmul_finite ((isFinite_iff c).2 hfin) hhalffin, hhalfsign, Bool.bne_false, hprod, fScaled, fScaled, hval,
    fSign_fMake _ _ (by omega), hdouble]
  split_ifs <;> push_cast <;> ring

/-- Settles O40: the clamp of a number, and at atmosphere 1.0 the factor is 0.5. -/
theorem effectiveCutoffIsClamped : Obligations.EffectiveCutoffIsClamped := by
  refine ⟨fun _ _ => rfl, fun cutoff atmos hc ha => ?range, fun cutoff hc => ⟨?half, ?full⟩⟩
  case range =>
    obtain ⟨hfin, -, hbits⟩ := cutoff_bits hc
    have hnan := isNaN_fmul_of_ne_zero hfin (by omega) (isNaN_atmosphere_factor ha)
    exact Bool.and_eq_true_iff.2 (fclamp_mem hnan (by decide))
  case half =>
    obtain ⟨hfin, -, hbits⟩ := cutoff_bits hc
    exact two_mul_fScaled_half hfin hbits
  case full =>
    have hfactor : fsub fOne (fmul fOne fHalf) = fHalf := by decide
    rw [cutoffEffOf, hfactor]
    rfl

end Sys2Proof.Machine
end

section
/-!
Rounding (R9, R11). A magnitude is a whole number of units in the last place; rounding takes the nearest such number, and no number of a
finer grid is nearer, for the finer grids end below the magnitude.
-/

namespace Sys2Proof.Machine

/-! ### The nearest whole number -/

/-- The result is within half of the exact quotient, and at exactly half it is even. -/
theorem roundNearestEven_within_half (num : Nat) {den : Nat} (hden : 0 < den) :
    2 * (roundNearestEven num den * den) ≤ 2 * num + den ∧ 2 * num ≤ 2 * (roundNearestEven num den * den) + den ∧
    (2 * (roundNearestEven num den * den) = 2 * num + den ∨ 2 * num = 2 * (roundNearestEven num den * den) + den →
      roundNearestEven num den % 2 = 0) := by
  have hsplit := Nat.div_add_mod' num den
  have hrem := Nat.mod_lt num hden
  have hnext : (num / den + 1) * den = num / den * den + den := Nat.succ_mul _ _
  simp only [roundNearestEven]
  split_ifs with hbelow habove
  · omega
  · rw [hnext]
    omega
  · rcases Nat.mod_two_eq_zero_or_one (num / den) with heven | hodd
    · rw [heven, Nat.add_zero]
      omega
    · rw [hodd, hnext]
      omega

/-- No whole number is nearer the exact quotient than the result, and where another is as near the result is even. -/
theorem roundNearestEven_nearest (num : Nat) {den : Nat} (hden : 0 < den) (m : Nat) :
    ((num : Int) - (roundNearestEven num den * den : Nat)).natAbs ≤ ((num : Int) - (m * den : Nat)).natAbs ∧
    (((num : Int) - (roundNearestEven num den * den : Nat)).natAbs = ((num : Int) - (m * den : Nat)).natAbs →
      m ≠ roundNearestEven num den → roundNearestEven num den % 2 = 0) := by
  obtain ⟨hlow, hhigh, htie⟩ := roundNearestEven_within_half num hden
  generalize roundNearestEven num den = r at *
  rcases Nat.lt_trichotomy m r with hlt | rfl | hgt
  · have : (m + 1) * den ≤ r * den := Nat.mul_le_mul_right _ hlt
    rw [Nat.succ_mul] at this
    omega
  · exact ⟨Nat.le_refl _, fun _ hne => absurd rfl hne⟩
  · have : (r + 1) * den ≤ m * den := Nat.mul_le_mul_right _ hgt
    rw [Nat.succ_mul] at this
    omega

theorem le_roundNearestEven (num den : Nat) : num / den ≤ roundNearestEven num den := by
  simp only [roundNearestEven]
  split_ifs <;> omega

/-! ### The units in the last place -/

/-- The unit in the last place of the magnitude `num / den` is `2 ^ ulp num den`, in units of `2^-149`. -/
def ulp (num den : Nat) : Nat := Nat.log2 (num / den) - 23

/-- The magnitude `num / den`, rounded to whole units in the last place. -/
def roundedUnits (num den : Nat) : Nat := roundNearestEven num (den * 2 ^ ulp num den)

theorem roundMag_eq (num den : Nat) : roundMag num den = min (ulp num den * 2 ^ 23 + roundedUnits num den) 0x7F800000 := rfl

theorem roundMag_of_lt {num den : Nat} (h : roundMag num den < 0x7F800000) :
    roundMag num den = ulp num den * 2 ^ 23 + roundedUnits num den := by
  rw [roundMag_eq] at h ⊢
  omega

section Units
variable {num den : Nat}

/-- Below full magnitudes the unit is the smallest there is. -/
theorem ulp_normal (hden : 0 < den) : ulp num den = 0 ∨ 2 ^ 23 * (den * 2 ^ ulp num den) ≤ num := by
  by_cases hzero : ulp num den = 0
  · exact .inl hzero
  · have hlog : 23 + ulp num den ≤ Nat.log2 (num / den) := by
      unfold ulp at hzero ⊢
      omega
    have hne : num / den ≠ 0 := fun h => by simp [ulp, h, Nat.log2_zero] at hzero
    have hquot := (Nat.le_log2 hne).1 hlog
    rw [Nat.le_div_iff_mul_le hden, Nat.pow_add] at hquot
    exact .inr (by linarith only [hquot])

theorem lt_ulp (hden : 0 < den) : num < 2 ^ 24 * (den * 2 ^ ulp num den) :=
  (Nat.div_lt_iff_lt_mul (by positivity)).1 (div_ulp_lt num den)

theorem roundedUnits_le : roundedUnits num den ≤ 2 ^ 24 := by
  have hle := roundNearestEven_le num (den * 2 ^ ulp num den)
  have hlt := div_ulp_lt num den
  unfold roundedUnits
  unfold ulp at hle ⊢
  omega

theorem roundedUnits_normal (hden : 0 < den) : ulp num den = 0 ∨ 2 ^ 23 ≤ roundedUnits num den := by
  refine (ulp_normal hden).imp_right fun hfull => le_trans ?_ (le_roundNearestEven _ _)
  rwa [Nat.le_div_iff_mul_le (by positivity)]

end Units

/-- The magnitude of a pattern of full units; `2^24` of them carry into the next binade, at the same value. -/
theorem fMag_fMake_units (neg : Bool) {m k : Nat} (hm : m ≤ 2 ^ 24) (hnormal : k = 0 ∨ 2 ^ 23 ≤ m) (hbits : k * 2 ^ 23 + m < 2 ^ 31) :
    fMag (fMake neg (k * 2 ^ 23 + m)) = m * 2 ^ k := by
  have hpattern := fMagBits_fMake neg _ hbits
  rcases Nat.lt_or_ge m (2 ^ 24) with hlt | hge
  · exact fMag_of_fMagBits hlt hnormal hpattern
  · obtain rfl : m = 2 ^ 24 := by omega
    calc fMag (fMake neg (k * 2 ^ 23 + 2 ^ 24))
        _ = 2 ^ 23 * 2 ^ (k + 1) := fMag_of_fMagBits (by decide) (.inr le_rfl) (by rw [hpattern]; ring)
        _ = 2 ^ 24 * 2 ^ k := by ring

/-! ### Nearest magnitude -/

/-- How far the magnitude of a pattern is from `num / den`, times `den`. -/
def roundingError (num den bits : Nat) : Nat := ((num : Int) - (fMag (fMake false bits) * den : Nat)).natAbs

theorem roundingError_units {num den m k bits : Nat} (h : fMag (fMake false bits) = m * 2 ^ k) :
    roundingError num den bits = ((num : Int) - (m * (den * 2 ^ k) : Nat)).natAbs := by
  rw [roundingError, h, Nat.mul_assoc, Nat.mul_comm (2 ^ k)]

theorem roundMag_nearest {num den : Nat} (hden : 0 < den) (hfin : roundMag num den < 0x7F800000) {other : Nat} (ho : other < 0x7F800000)
    (hne : other ≠ roundMag num den) :
    roundingError num den (roundMag num den) ≤ roundingError num den other ∧
    (roundingError num den (roundMag num den) = roundingError num den other → roundMag num den % 2 = 0) := by
  have hulp : 0 < den * 2 ^ ulp num den := by positivity
  have hnearest := roundNearestEven_nearest num hulp
  have hmag : fMag (fMake false (roundMag num den)) = roundedUnits num den * 2 ^ ulp num den := by
    have hpattern := roundMag_of_lt hfin
    rw [hpattern]
    exact fMag_fMake_units false roundedUnits_le (roundedUnits_normal hden) (by omega)
  rw [roundingError_units hmag]
  obtain ⟨m, k, hm, -, -, hother⟩ := fMag_eq (fMake false other)
  rcases Nat.lt_or_ge k (ulp num den) with hfiner | hcoarser
  · -- A finer grid ends below the smallest full number of units, which is not nearer than the result.
    have hbelow : m * (den * 2 ^ k) < 2 ^ 23 * (den * 2 ^ ulp num den) :=
      calc m * (den * 2 ^ k)
          _ < 2 ^ 24 * (den * 2 ^ k) := Nat.mul_lt_mul_of_pos_right hm (by positivity)
          _ = 2 ^ 23 * (den * 2 ^ (k + 1)) := by ring
          _ ≤ 2 ^ 23 * (den * 2 ^ ulp num den) :=
            Nat.mul_le_mul_left _ (Nat.mul_le_mul_left _ (Nat.pow_le_pow_right (by decide) hfiner))
    obtain ⟨hfull, -⟩ := hnearest (2 ^ 23)
    have hnum := (ulp_normal (num := num) hden).resolve_left (by omega)
    rw [roundingError_units hother]
    unfold roundedUnits
    omega
  · -- The other magnitude is a whole number of units too.
    have hgrid : fMag (fMake false other) = m * 2 ^ (k - ulp num den) * 2 ^ ulp num den := by
      rw [hother, Nat.mul_assoc, ← Nat.pow_add, Nat.sub_add_cancel hcoarser]
    rw [roundingError_units hgrid]
    obtain ⟨hle, htie⟩ := hnearest (m * 2 ^ (k - ulp num den))
    refine ⟨hle, fun heq => ?_⟩
    have hunits : m * 2 ^ (k - ulp num den) ≠ roundedUnits num den := fun hsame => by
      rw [hsame, ← hmag] at hgrid
      have hlt := fMag_lt_iff (fMake false other) (fMake false (roundMag num den))
      have hgt := fMag_lt_iff (fMake false (roundMag num den)) (fMake false other)
      rw [fMagBits_fMake _ _ (by omega), fMagBits_fMake _ _ (by omega)] at hlt hgt
      omega
    have heven : roundedUnits num den % 2 = 0 := htie heq hunits
    rw [roundMag_of_lt hfin]
    omega

/-! ### Overflow -/

/-- Half a unit below `2^24` units is rounded up to them, for the last number below them is odd. -/
theorem roundNearestEven_full_iff {num half : Nat} (hhalf : 0 < half) (hle : roundNearestEven num (2 * half) ≤ 2 ^ 24) :
    2 ^ 24 ≤ roundNearestEven num (2 * half) ↔ (2 ^ 25 - 1) * half ≤ num := by
  obtain ⟨hlow, hhigh, htie⟩ := roundNearestEven_within_half num (den := 2 * half) (by omega)
  generalize roundNearestEven num (2 * half) = r at *
  rcases Nat.lt_or_ge r (2 ^ 24 - 1) with hlt | hge
  · have : r * (2 * half) ≤ (2 ^ 24 - 2) * (2 * half) := Nat.mul_le_mul_right _ (by omega)
    omega
  · rcases (by omega : r = 2 ^ 24 - 1 ∨ r = 2 ^ 24) with rfl | rfl <;> omega

/-- Magnitudes overflow from half a unit below `2^24` units of `2^253` on. -/
theorem roundMag_eq_inf_iff {num den : Nat} (hden : 0 < den) :
    roundMag num den = 0x7F800000 ↔ (2 ^ 25 - 1) * 2 ^ 252 * den ≤ num := by
  have hinf : roundMag num den = 0x7F800000 ↔ 0x7F800000 ≤ ulp num den * 2 ^ 23 + roundedUnits num den := by
    rw [roundMag_eq]
    omega
  have hunits := roundedUnits_le (num := num) (den := den)
  have hnormal := roundedUnits_normal (num := num) hden
  have hscale : (2 ^ 25 - 1) * 2 ^ 252 * den = (2 ^ 25 - 1) * (den * 2 ^ 252) := by ring
  rw [hinf, hscale]
  rcases Nat.lt_trichotomy (ulp num den) 253 with hlt | heq | hgt
  · have hnum := lt_ulp (num := num) hden
    have hmono : den * 2 ^ ulp num den ≤ den * 2 ^ 252 := Nat.mul_le_mul_left _ (Nat.pow_le_pow_right (by decide) (by omega))
    generalize den * 2 ^ ulp num den = u at *
    omega
  · have hround : roundedUnits num den = roundNearestEven num (2 * (den * 2 ^ 252)) := by
      rw [roundedUnits, heq]
      congr 1
      ring
    rw [hround] at hunits ⊢
    rw [heq, ← roundNearestEven_full_iff (by positivity) hunits]
    omega
  · have hnum := (ulp_normal (num := num) hden).resolve_left (by omega)
    have hmono : den * 2 ^ 254 ≤ den * 2 ^ ulp num den := Nat.mul_le_mul_left _ (Nat.pow_le_pow_right (by decide) (by omega))
    have hfour : den * 2 ^ 254 = 4 * (den * 2 ^ 252) := by ring
    generalize den * 2 ^ ulp num den = u at *
    omega

end Sys2Proof.Machine
end

section
/-!
The operations of R9 by the classes of their operands, the comparisons, the fields of a pattern and `floor32` (spec/00_scope.md section 5,
spec/47_system.md section 4). What is rounded and how is in the part before this one.
-/

namespace Sys2Proof.Machine

/-! ### The fields of a pattern -/

theorem exponent_field (x : F32) : (x.extractLsb' 23 8).toNat = fMagBits x / 2 ^ 23 := by
  simp only [BitVec.extractLsb'_toNat, Nat.shiftRight_eq_div_pow, fMagBits]
  omega

theorem fraction_field (x : F32) : (x.extractLsb' 0 23).toNat = fMagBits x % 2 ^ 23 := by
  simp only [BitVec.extractLsb'_toNat, Nat.shiftRight_eq_div_pow, fMagBits]
  omega

theorem fSign_eq_getLsbD (x : F32) : fSign x = x.getLsbD 31 := by
  have hmsb := BitVec.msb_eq_decide x
  rw [BitVec.msb_eq_getLsbD_last] at hmsb
  exact hmsb.symm

/-! ### Finite operands -/

section Finite
variable {a b : F32}

theorem fsub_finite (ha : isFinite a = true) (hb : isFinite b = true) :
    fsub a b = if fScaled a - fScaled b = 0 then fMake (fSign a && !fSign b) 0 else roundSigned (fScaled a - fScaled b) 1 := by
  rw [fsub, fadd_finite ha (by rwa [isFinite_fNeg]), fSign_fNeg, fScaled_fNeg, ← Int.sub_eq_add_neg]

theorem fdiv_finite (ha : isFinite a = true) (hb : isFinite b = true) :
    fdiv a b =
      if fMag b ≠ 0 then fMake (fSign a != fSign b) (roundMag (fMag a * 2 ^ 149) (fMag b))
      else if fMag a ≠ 0 then fInf (fSign a != fSign b) else fNaN := by
  obtain ⟨hnana, hinfa⟩ := classes_of_isFinite ha
  obtain ⟨hnanb, hinfb⟩ := classes_of_isFinite hb
  simp only [fdiv, hnana, hinfa, hnanb, hinfb, ← fMag_eq_zero_iff, ne_eq, ite_not, Bool.or_self, Bool.false_eq_true, if_false]

theorem flt_finite (ha : isFinite a = true) (hb : isFinite b = true) : flt a b = decide (fScaled a < fScaled b) := by
  simp [flt, (classes_of_isFinite ha).1, (classes_of_isFinite hb).1, fKey_lt_iff]

theorem fle_finite (ha : isFinite a = true) (hb : isFinite b = true) : fle a b = decide (fScaled a ≤ fScaled b) := by
  simp [fle, (classes_of_isFinite ha).1, (classes_of_isFinite hb).1, fKey_le_iff]

theorem feq_finite (ha : isFinite a = true) (hb : isFinite b = true) : feq a b = decide (fScaled a = fScaled b) := by
  simp [feq, (classes_of_isFinite ha).1, (classes_of_isFinite hb).1, le_antisymm_iff, fKey_le_iff]

end Finite

/-! ### NaN operands -/

theorem fsub_nan {a b : F32} (h : isNaN a = true ∨ isNaN b = true) : fsub a b = fNaN :=
  fadd_nan a (fNeg b) (by rwa [isNaN_fNeg])

theorem comparisons_of_isNaN {a b : F32} (h : isNaN a = true ∨ isNaN b = true) :
    flt a b = false ∧ fle a b = false ∧ feq a b = false := by
  rcases h with h | h <;> simp [flt, fle, feq, h]

/-! ### Infinities -/

/-- An infinity is beyond every finite number on the side of its sign. -/
theorem fKey_of_isInf {a : F32} (ha : isInf a = true) : fKey a = if fSign a then -0x7F800000 else 0x7F800000 := by
  simp [fKey, (isInf_iff a).1 ha]

theorem fKey_of_isFinite {b : F32} (hb : isFinite b = true) : -0x7F800000 < fKey b ∧ fKey b < 0x7F800000 := by
  rw [isFinite_iff] at hb
  unfold fKey
  split_ifs <;> omega

theorem fNeg_of_isInf {a : F32} (ha : isInf a = true) : fNeg a = fInf (!fSign a) := by
  rw [← fInf_fSign (x := fNeg a) (by rwa [isInf_fNeg]), fSign_fNeg]

section Infinite
variable {a b : F32}

theorem sums_of_isInf_of_isFinite (ha : isInf a = true) (hb : isFinite b = true) :
    fadd a b = a ∧ fadd b a = a ∧ fsub a b = a ∧ fsub b a = fInf (!fSign a) := by
  obtain ⟨hnan, hinf⟩ := classes_of_isFinite hb
  refine ⟨fadd_of_isInf_left ha hnan (by simp [hinf]), fadd_of_isInf_right hb ha, ?_, ?_⟩
  · exact fadd_of_isInf_left ha (by rwa [isNaN_fNeg]) (by simp [hinf])
  · rw [fsub, fadd_of_isInf_right hb (by rwa [isInf_fNeg]), fNeg_of_isInf ha]

theorem products_of_isInf_of_isFinite (ha : isInf a = true) (hb : isFinite b = true) :
    fmul a b = (if fMag b = 0 then fNaN else fInf (fSign a != fSign b)) ∧
    fmul b a = if fMag b = 0 then fNaN else fInf (fSign a != fSign b) := by
  obtain ⟨hnan, hinf⟩ := classes_of_isFinite hb
  have hbits := (isInf_iff a).1 ha
  have hswap : (fSign b != fSign a) = (fSign a != fSign b) := bne_comm
  constructor <;> simp [fmul, isNaN_of_isInf ha, hnan, ha, hbits, fMag_eq_zero_iff, hswap]

theorem quotients_of_isInf_of_isFinite (ha : isInf a = true) (hb : isFinite b = true) :
    fdiv a b = fInf (fSign a != fSign b) ∧ fdiv b a = fMake (fSign a != fSign b) 0 := by
  obtain ⟨hnan, hinf⟩ := classes_of_isFinite hb
  have hswap : (fSign b != fSign a) = (fSign a != fSign b) := bne_comm
  constructor <;> simp [fdiv, isNaN_of_isInf ha, hnan, ha, hinf, hswap]

theorem comparisons_of_isInf_of_isFinite (ha : isInf a = true) (hb : isFinite b = true) :
    flt a b = fSign a ∧ flt b a = !fSign a ∧ fle a b = fSign a ∧ fle b a = !fSign a ∧ feq a b = false ∧ feq b a = false := by
  obtain ⟨hnan, -⟩ := classes_of_isFinite hb
  obtain ⟨hlow, hhigh⟩ := fKey_of_isFinite hb
  have hkey := fKey_of_isInf ha
  simp only [flt, fle, feq, isNaN_of_isInf ha, hnan, Bool.not_false, Bool.true_and]
  cases hs : fSign a <;> simp only [hs, if_true, if_false, Bool.false_eq_true] at hkey <;> simp <;> omega

theorem sums_of_isInf (ha : isInf a = true) (hb : isInf b = true) :
    fadd a b = (if fSign a = fSign b then a else fNaN) ∧ fsub a b = if fSign a = fSign b then fNaN else a := by
  have hnana := isNaN_of_isInf ha
  have hnanb := isNaN_of_isInf hb
  constructor
  · simp [fadd, hnana, hnanb, ha, hb]
  · cases hsa : fSign a <;> cases hsb : fSign b <;> simp [fsub, fadd, hnana, hnanb, ha, hb, hsa, hsb]

theorem product_and_quotient_of_isInf (ha : isInf a = true) (hb : isInf b = true) :
    fmul a b = fInf (fSign a != fSign b) ∧ fdiv a b = fNaN := by
  have hnana := isNaN_of_isInf ha
  have hnanb := isNaN_of_isInf hb
  constructor
  · simp [fmul, hnana, hnanb, ha, (isInf_iff a).1 ha, (isInf_iff b).1 hb]
  · simp [fdiv, hnana, hnanb, ha, hb]

theorem comparisons_of_isInf (ha : isInf a = true) (hb : isInf b = true) :
    flt a b = (fSign a && !fSign b) ∧ fle a b = (fSign a || !fSign b) ∧ feq a b = (fSign a == fSign b) := by
  simp only [flt, fle, feq, isNaN_of_isInf ha, isNaN_of_isInf hb, fKey_of_isInf ha, fKey_of_isInf hb]
  cases fSign a <;> cases fSign b <;> decide

end Infinite

/-! ### `floor32` (R11) -/

/-- The next whole period above an exact number that is not one is exact: a number with a fraction has at most 24 bits above it. -/
theorem IsExact.next_period {n : Nat} (h : IsExact n) (hfrac : n % 2 ^ 149 ≠ 0) : IsExact ((n / 2 ^ 149 + 1) * 2 ^ 149) := by
  obtain ⟨m, k, hm, hk, rfl⟩ := h
  have hsmall : k < 149 := by
    by_contra hge
    exact hfrac (Nat.mod_eq_zero_of_dvd (Dvd.dvd.mul_left (Nat.pow_dvd_pow 2 (by omega)) m))
  have hperiods : m * 2 ^ k / 2 ^ 149 < 2 ^ 24 := by
    rw [Nat.div_lt_iff_lt_mul (by positivity)]
    exact Nat.mul_lt_mul_of_lt_of_le hm (Nat.pow_le_pow_right (by decide) (by omega)) (by positivity)
  rcases Nat.lt_or_ge (m * 2 ^ k / 2 ^ 149 + 1) (2 ^ 24) with hlt | hge
  · exact ⟨_, 149, hlt, by decide, rfl⟩
  · have hfull : m * 2 ^ k / 2 ^ 149 + 1 = 2 ^ 24 := by omega
    exact ⟨2 ^ 23, 150, by decide, by decide, by rw [hfull]; decide⟩

theorem isExact_floor {x : F32} (hx : isFinite x = true) : IsExact (fScaled x / 2 ^ 149 * 2 ^ 149).natAbs := by
  have hexact := isExact_fMag hx
  unfold fScaled
  split_ifs with hneg
  · by_cases hwhole : fMag x % 2 ^ 149 = 0
    · have : (-(fMag x : Int) / 2 ^ 149 * 2 ^ 149).natAbs = fMag x := by omega
      rwa [this]
    · have : (-(fMag x : Int) / 2 ^ 149 * 2 ^ 149).natAbs = (fMag x / 2 ^ 149 + 1) * 2 ^ 149 := by omega
      rw [this]
      exact hexact.next_period hwhole
  · exact (hexact.mod_div 149).2

theorem floor32_exact {x : F32} (hx : isFinite x = true) :
    isFinite (floor32 x) = true ∧ fScaled (floor32 x) = fScaled x / 2 ^ 149 * 2 ^ 149 := by
  rw [floor32, if_pos hx]
  exact fScaled_roundSigned_of_exact (isExact_floor hx)

/-! ### The arithmetic -/

theorem classes_iff_fields (x : F32) :
    (isNaN x = true ↔ fMagBits x / 2 ^ 23 = 255 ∧ fMagBits x % 2 ^ 23 ≠ 0) ∧
    (isInf x = true ↔ fMagBits x / 2 ^ 23 = 255 ∧ fMagBits x % 2 ^ 23 = 0) ∧
    (isFinite x = true ↔ fMagBits x / 2 ^ 23 < 255) := by
  have hlt := fMagBits_lt x
  rw [isNaN_iff, isInf_iff, isFinite_iff]
  omega

/-- Settles O43: rounding to nearest by the grid of the result's last place, each operation by the classes of its operands. -/
theorem roundingIsToNearestEven : Obligations.RoundingIsToNearestEven := by
  unfold Obligations.RoundingIsToNearestEven
  refine ⟨fun num den hden hfin other ho hne => roundMag_nearest hden hfin ho hne,
    fun num den hden => ⟨roundMag_le num den, roundMag_eq_inf_iff hden⟩, fun x => ?_, fun a b h => ?_, fun a b ha hb => ?_,
    fun a b ha hb => ?_, fun a b ha hb => ?_, fun x hx => floor32_exact hx⟩
  · obtain ⟨hnan, hinf, hfin⟩ := classes_iff_fields x
    rw [exponent_field, fraction_field, ← fSign_eq_getLsbD]
    exact ⟨hnan, hinf, hfin, rfl, rfl, rfl⟩
  · exact ⟨fadd_nan a b h, fsub_nan h, fmul_nan a b h, fdiv_nan a b h, comparisons_of_isNaN h⟩
  · exact ⟨fadd_finite ha hb, fsub_finite ha hb, fmul_finite ha hb, fdiv_finite ha hb, flt_finite ha hb, fle_finite ha hb,
      feq_finite ha hb⟩
  · obtain ⟨haddl, haddr, hsubl, hsubr⟩ := sums_of_isInf_of_isFinite ha hb
    obtain ⟨hmull, hmulr⟩ := products_of_isInf_of_isFinite ha hb
    obtain ⟨hdivl, hdivr⟩ := quotients_of_isInf_of_isFinite ha hb
    exact ⟨haddl, haddr, hsubl, hsubr, hmull, hmulr, hdivl, hdivr, comparisons_of_isInf_of_isFinite ha hb⟩
  · obtain ⟨hadd, hsub⟩ := sums_of_isInf ha hb
    obtain ⟨hmul, hdiv⟩ := product_and_quotient_of_isInf ha hb
    exact ⟨hadd, hsub, hmul, hdiv, comparisons_of_isInf ha hb⟩

end Sys2Proof.Machine
end
